-- ==== Sys2Proof/Word.lean ====
section
/-! DEFINITION. The word types of BitMatrixTranspose32 (00_scope R5, R8; 30_encoding R46). -/

namespace Sys2Proof

/-- A word: one row of the matrix, 32 unsigned bits, bit 0 the least significant (00_scope R8(a)). -/
abbrev Word := BitVec 32

/-- Format `CW8`: one control word, 8 bits (30_encoding R46, R47). -/
abbrev ControlWord := BitVec 8

/-- Format `IDX5`: one entry of a permutation index array, 5 bits (30_encoding R51). -/
abbrev Idx5 := BitVec 5

/-- A vector register: 16 lanes of 32 bits (10_state R12, R13). -/
abbrev Lanes := Vector Word 16

/-- One index array: 16 entries, one for each destination lane, lane 0 first (30_encoding R51). -/
abbrev IndexArray := Vector Idx5 16

end Sys2Proof
end

