-- ==== Sys2Proof/Config.lean ====
section
/-! DEFINITION. What an implementation fixes and the spec leaves open: the contents of the vector
registers after reset (93 U4, `any value`) and the duration of a step (93 U7, `STEP_TIME`). The
hardwired tables are not here: they are `Machine/Tables.lean`, since the spec gives their values. -/

namespace Sys2Proof

/-- The free values of the vector registers after the reset input (10_state R28, 70_reset R114,
R115: "unspecified"; 93 U4: `any value`). Draw number `n` reads as `Config.freeLane n`; it has no
body, so nothing can be proved of a draw. Log 3. The stream is one for all engines and runs (DESIGN
CHOICE, log 24). -/
opaque Config.freeLane : Nat → Word

/-- `STEP_TIME` less one unit (70_reset R126, 92 D13), an open parameter. Log 11. -/
opaque Config.stepTimeLessOne : Nat

/-- `STEP_TIME`: the duration of one step, positive, finite and the same for every operand
(70_reset R124, R126). No rule of the model depends on it. -/
def Config.stepTime : Nat := Config.stepTimeLessOne + 1

end Sys2Proof
end

