-- ==== Sys2Proof/Machine/State.lean ====
section
/-! DEFINITION. The state of the machine: every piece of state 10_state R29 counts, and the model's
own fields for the host agent and the free values. Plain data. -/

namespace Sys2Proof.Machine

/-- A listed location of the matrix space: a row index and the row's 32-bit word. The smallest
addressable unit is the word and a row is "a 32-bit value, not ... four bytes" (20_memory R30, R32;
log 5). -/
abbrev RowCell := Nat × Word

/-- The matrix buffer `MAT` (10_state R10): the listed rows, in the canonical form `Memory.wf`. -/
abbrev Memory := List RowCell

/-- What an unlisted row reads as. DESIGN CHOICE (log 2): the spec leaves the power-up content of
`MAT` unspecified (70_reset R116). -/
def unlistedRow : Word := 0

/-- The canonical form: row indices strictly rising and below 32, no listed row equal to what an
unlisted row reads as. So equal buffers are equal lists. -/
def Memory.wf (m : Memory) : Bool :=
  decide (m.Pairwise fun a b => a.1 < b.1) &&
    m.all fun c => decide (c.1 < 32) && decide (c.2 ≠ unlistedRow)

/-- The host's moves of 20_memory R42 other than reset, and its silence. -/
inductive HostMove where
  /-- The host does nothing: the engine may take its step. -/
  | pass
  /-- The start command (10_state R18). -/
  | start
  /-- Write the word `w` to row `i` of `MAT`. -/
  | writeRow (i : Nat) (w : Word)
  /-- Read row `i` of `MAT`. -/
  | readRow (i : Nat)
  /-- Read the status bit `busy`. -/
  | readBusy
  /-- Read the status bit `done`. -/
  | readDone
deriving DecidableEq, Repr

/-- One tick of the host interface: is the reset input asserted, and which move the host makes.
Both may fall together; reset then wins (70_reset R113). -/
structure Tick where
  reset : Bool
  move : HostMove
deriving DecidableEq, Repr

/-- What a read hands back to the host (20_memory R42). -/
inductive Answer where
  | row (w : Word)
  | bit (b : Bool)
deriving DecidableEq, Repr

/-- The whole state. `mat` to `step` are the spec's 3078 bits (10_state R29); `script`, `answer` and
`freeCount` are the model's own. -/
structure State where
  /-- `MAT[0..31]` (10_state R10). -/
  mat : Memory
  /-- `V0[0..15]`, working vector "lo" (10_state R12). -/
  v0 : Lanes
  /-- `V1[0..15]`, working vector "hi" (10_state R12). -/
  v1 : Lanes
  /-- `P0[0..15]`, prepared vector "lo-prep" (10_state R13). -/
  p0 : Lanes
  /-- `P1[0..15]`, prepared vector "hi-prep" (10_state R13). -/
  p1 : Lanes
  /-- A `TRANSPOSE` is in progress (10_state R16). -/
  busy : Bool
  /-- The last `TRANSPOSE` has completed (10_state R16). -/
  done : Bool
  /-- The engine's program counter: index of the next micro-operation (10_state R16, R17). -/
  step : BitVec 4
  /-- The model's own: the host's moves still to come (log 7). -/
  script : List Tick
  /-- The model's own: what the host's last read handed back (log 17). -/
  answer : Option Answer
  /-- The model's own: how many free values have been drawn (log 3). -/
  freeCount : Nat
deriving DecidableEq, Repr

/-- The faults: none. "The set of exception causes is empty" (60_exceptions R100, R101), and no
behaviour has the treatment `fault` (93 section 1). Log 14. -/
inductive Fault where
deriving DecidableEq, Repr

/-- The refusals: moves and encodings the spec gives no meaning (93 U1, U2, U3, U12; 95 X1 to X5). -/
inductive Refusal where
  /-- Raised by `exec`'s arm of an instruction without a meaning; no arm answers it. Safe. -/
  | notModelled (mnemonic : String)
  /-- The host read a row of `MAT` while busy (93 U1, 70_reset R119, R121). Raised by `hostRead`.
  Safe: the spec asks for the refusal. -/
  | rowReadWhileBusy
  /-- The host wrote a row of `MAT` while busy (93 U1, 70_reset R119). Raised by `hostWrite`. Safe. -/
  | rowWriteWhileBusy
  /-- The host issued start while busy (93 U2, 70_reset R120). Raised by `hostStart`. Safe. -/
  | startWhileBusy
  /-- The host named a row index above 31 (20_memory R30, 95 X5). Raised by `hostRead` and
  `hostWrite`. Safe: there is no such location. -/
  | noSuchRow (i : Nat)
  /-- A busy engine with `step` 13, 14 or 15 (93 U12: unreachable). Raised by `engineTransition`.
  Safe. -/
  | noSuchStep (n : Nat)
  /-- A reserved control word was fetched (93 U3: unreachable). Raised by `engineTransition`. Safe. -/
  | reservedWord (cw : ControlWord)
deriving DecidableEq, Repr

/-- The machine at power-up, after reset: `busy = 0`, `done = 0`, `step = 0` (10_state R28). DESIGN
CHOICE where the spec says "unspecified": every lane 0 (log 1), no row listed (log 2). The model's own
fields are empty (log 4): no move of the host is placed. -/
def State.reset : State :=
  { mat := []
    v0 := Vector.replicate 16 0
    v1 := Vector.replicate 16 0
    p0 := Vector.replicate 16 0
    p1 := Vector.replicate 16 0
    busy := false
    done := false
    step := 0
    script := []
    answer := none
    freeCount := 0 }

end Sys2Proof.Machine
end

