-- ==== Sys2Proof/Machine/Flags.lean ====
section
/-! DEFINITION. The engine has no condition codes and no flag that a micro-operation writes
(10_state R19). The only status bits are `busy` and `done`, which report the sequencer; their three
updates are here. -/

namespace Sys2Proof.Machine

/-- The sequencer's three registers, written together (10_state R16). -/
def State.withSequencer (s : State) (busy done : Bool) (step : BitVec 4) : State :=
  { s with busy := busy, done := done, step := step }

/-- Start: `busy <- 1 ; done <- 0 ; step <- 0` (10_state R18). -/
def State.startSequencer (s : State) : State := s.withSequencer true false 0

/-- Completion: `step <- 0 ; busy <- 0 ; done <- 1` (10_state R17). -/
def State.completeSequencer (s : State) : State := s.withSequencer false true 0

/-- Reset: `busy = 0`, `done = 0`, `step = 0` (70_reset R114). -/
def State.resetSequencer (s : State) : State := s.withSequencer false false 0

end Sys2Proof.Machine
end

