-- ==== Sys2Proof/Syntax.lean ====
section
/-! DEFINITION. The micro-operations of `spec/opcode_table.json`, one constructor a row, and the
pseudo-instructions of 30_encoding R59. -/

namespace Sys2Proof

/-- The five block sizes, in the order the stages run (`KSEQ`, 00_scope R5; 30_encoding R49). -/
inductive BlockSize where
  | k16
  | k8
  | k4
  | k2
  | k1
deriving DecidableEq, Repr

/-- The 13 micro-operations (30_encoding R53). None has an operand: the block size is part of the
name (R58) and every source and destination register is fixed (R47, 10_state R14). -/
inductive Instr where
  | load
  | swz16
  | mrg16
  | swz8
  | mrg8
  | swz4
  | mrg4
  | swz2
  | mrg2
  | swz1
  | mrg1
  | ilv
  | store
deriving DecidableEq, Repr

/-- The two pseudo-instructions (30_encoding R59). -/
inductive Pseudo where
  | stage (k : BlockSize)
  | transpose
deriving DecidableEq, Repr

end Sys2Proof
end

