-- ==== Sys2Proof/WellFormed.lean ====
section
/-! DEFINITION. What can be ill-formed on this hardware. An `Instr` carries no operand, so every
`Instr` is well formed; the checks are on the raw field pair of a control word (30_encoding R48,
R49), on a pair of index arrays (41_swizzle R64) and on a row index (20_memory R30). -/

namespace Sys2Proof

/-- The two fields of a control word, before they are known to mean anything (30_encoding R47). -/
structure ControlFields where
  /-- `op = cw[7:5]`, the kind of micro-operation. -/
  op : BitVec 3
  /-- `k = cw[4:0]`, the block size. -/
  k : BitVec 5
deriving DecidableEq, Repr

/-- The `k` field of a `SWZ` or `MRG` word is one of 16, 8, 4, 2, 1 (30_encoding R49). -/
def legalBlockField (k : BitVec 5) : Bool :=
  k == 16 || k == 8 || k == 4 || k == 2 || k == 1

/-- The field pairs that spell a micro-operation (30_encoding R48): `LOAD` (1), `ILV` (4) and
`STORE` (5) with `k = 0`; `SWZ` (2) and `MRG` (3) with a legal block size; nothing else. -/
def ControlFields.wf (f : ControlFields) : Bool :=
  match f.op.toNat with
  | 1 => f.k == 0
  | 2 => legalBlockField f.k
  | 3 => legalBlockField f.k
  | 4 => f.k == 0
  | 5 => f.k == 0
  | _ => false

/-- A pair of index arrays names each of the 32 positions exactly once (10_state R23, R24;
41_swizzle R64: "a bijection on 0..31"). -/
def indexPairWf (a0 a1 : IndexArray) : Bool :=
  (List.range 32).all fun p => (a0.toList ++ a1.toList).count (BitVec.ofNat 5 p) == 1

/-- A row index names a location of the matrix space (20_memory R30). -/
def rowIndexWf (i : Nat) : Bool := decide (i < 32)

end Sys2Proof
end

