-- ==== Sys2Proof/Decode.lean ====
section
/-! DEFINITION. The decoder of control words, total on 8 bits, and after it the encoder
(30_encoding R47 to R57). -/

namespace Sys2Proof

/-- Why a control word is reserved (30_encoding R54: refuse, by name, with no meaning). -/
inductive Reserved where
  /-- `op` is 0, 6 or 7. -/
  | opField (op : BitVec 3)
  /-- `LOAD`, `ILV` or `STORE` with a `k` that is not 0. -/
  | kNotZero (op : BitVec 3) (k : BitVec 5)
  /-- `SWZ` or `MRG` with a `k` that is not one of 16, 8, 4, 2, 1. -/
  | kNotBlockSize (op : BitVec 3) (k : BitVec 5)
deriving DecidableEq, Repr

/-- What a control word spells. -/
inductive Decoded where
  | instr (i : Instr)
  | reserved (why : Reserved)
deriving DecidableEq, Repr

/-- The field pair of a control word (30_encoding R47): `op = cw[7:5]`, `k = cw[4:0]`. -/
def fieldsOf (cw : ControlWord) : ControlFields :=
  { op := cw.extractLsb' 5 3, k := cw.extractLsb' 0 5 }

/-- The block size a 5-bit `k` field names, where it names one (30_encoding R49). -/
def blockSizeOf (k : BitVec 5) : Option BlockSize :=
  if k = 16 then some .k16
  else if k = 8 then some .k8
  else if k = 4 then some .k4
  else if k = 2 then some .k2
  else if k = 1 then some .k1
  else none

/-- `SWZk` as a micro-operation (30_encoding R53). -/
def swzOf : BlockSize → Instr
  | .k16 => .swz16
  | .k8 => .swz8
  | .k4 => .swz4
  | .k2 => .swz2
  | .k1 => .swz1

/-- `MRGk` as a micro-operation (30_encoding R53). -/
def mrgOf : BlockSize → Instr
  | .k16 => .mrg16
  | .k8 => .mrg8
  | .k4 => .mrg4
  | .k2 => .mrg2
  | .k1 => .mrg1

/-- A kind that has no stage: `i` when `k` is 0, else reserved (30_encoding R48). -/
def decodeStageless (f : ControlFields) (i : Instr) : Decoded :=
  if f.k = 0 then .instr i else .reserved (.kNotZero f.op f.k)

/-- A kind with one micro-operation for each block size (30_encoding R48, R49). -/
def decodeStaged (f : ControlFields) (ofBlock : BlockSize → Instr) : Decoded :=
  match blockSizeOf f.k with
  | some b => .instr (ofBlock b)
  | none => .reserved (.kNotBlockSize f.op f.k)

/-- The meaning of a field pair (30_encoding R48). -/
def decodeFields (f : ControlFields) : Decoded :=
  match f.op.toNat with
  | 1 => decodeStageless f .load
  | 2 => decodeStaged f swzOf
  | 3 => decodeStaged f mrgOf
  | 4 => decodeStageless f .ilv
  | 5 => decodeStageless f .store
  | _ => .reserved (.opField f.op)

/-- The decoder: total on 8-bit words (30_encoding R54). -/
def decode (cw : ControlWord) : Decoded := decodeFields (fieldsOf cw)

/-- A string of control words, one instruction a byte: every length is 8 bits (30_encoding R57). -/
def decodeAll (bytes : List ControlWord) : List Decoded := bytes.map decode

/-- The field pair of a micro-operation (30_encoding R53, columns `op` and `k`). -/
def instrFields : Instr → ControlFields
  | .load => { op := 1, k := 0 }
  | .swz16 => { op := 2, k := 16 }
  | .mrg16 => { op := 3, k := 16 }
  | .swz8 => { op := 2, k := 8 }
  | .mrg8 => { op := 3, k := 8 }
  | .swz4 => { op := 2, k := 4 }
  | .mrg4 => { op := 3, k := 4 }
  | .swz2 => { op := 2, k := 2 }
  | .mrg2 => { op := 3, k := 2 }
  | .swz1 => { op := 2, k := 1 }
  | .mrg1 => { op := 3, k := 1 }
  | .ilv => { op := 4, k := 0 }
  | .store => { op := 5, k := 0 }

/-- A field pair laid out as a control word, `op` in the more significant bits (30_encoding R47). -/
def wordOfFields (f : ControlFields) : ControlWord := f.op ++ f.k

/-- The encoder: the control word of a micro-operation (30_encoding R53). -/
def encode (i : Instr) : ControlWord := wordOfFields (instrFields i)

/-- The control word that the opcode table's number `w` of `nbits` bits stands for: every row has
8 bits, and bit 0 of the number is bit 0 of the word. -/
def tableWord (nbits w : Nat) : Option ControlWord :=
  if nbits = 8 ∧ w < 256 then some (BitVec.ofNat 8 w) else none

/-- The instruction the decoder reads from a row of `spec/opcode_table.json`. -/
def decodeTableWord (nbits w : Nat) : Option Instr :=
  match tableWord nbits w with
  | none => none
  | some cw =>
    match decode cw with
    | .instr i => some i
    | .reserved _ => none

end Sys2Proof
end

