-- ==== Sys2Proof/Machine/Tables.lean ====
section
/-! DEFINITION. The hardwired constant tables (10_state R20 to R25): `MASK_ROM`, the shift amounts,
`PERM_ROM`, `ILV_ROM` and `SEQ_ROM`. Nothing writes them and reset does not change them. -/

namespace Sys2Proof.Machine

/-- The block size as a number, which is also the shift amount of its stage (10_state R22;
30_encoding R49, R50(a)). -/
def blockSize : BlockSize → Nat
  | .k16 => 16
  | .k8 => 8
  | .k4 => 4
  | .k2 => 2
  | .k1 => 1

/-- `log2(k)` (30_encoding R49). -/
def blockLog2 : BlockSize → Nat
  | .k16 => 4
  | .k8 => 3
  | .k4 => 2
  | .k2 => 1
  | .k1 => 0

/-- `KSEQ`: the stages in the order they run, strictly decreasing (00_scope R5, 70_reset R123). -/
def stageOrder : List BlockSize := [.k16, .k8, .k4, .k2, .k1]

/-- `MASK_ROM` (10_state R21). -/
def maskRom : BlockSize → Word
  | .k16 => 0xFFFF0000
  | .k8 => 0xFF00FF00
  | .k4 => 0xF0F0F0F0
  | .k2 => 0xCCCCCCCC
  | .k1 => 0xAAAAAAAA

/-- `PERM_ROM`, the arrays `SWZ_P0[k]` (10_state R23). -/
def swzP0 : BlockSize → IndexArray
  | .k16 => #v[0x00, 0x01, 0x02, 0x03, 0x04, 0x05, 0x06, 0x07,
               0x08, 0x09, 0x0A, 0x0B, 0x0C, 0x0D, 0x0E, 0x0F]
  | .k8 => #v[0x00, 0x01, 0x02, 0x03, 0x04, 0x05, 0x06, 0x07,
              0x10, 0x11, 0x12, 0x13, 0x14, 0x15, 0x16, 0x17]
  | .k4 => #v[0x00, 0x01, 0x02, 0x03, 0x10, 0x11, 0x12, 0x13,
              0x08, 0x09, 0x0A, 0x0B, 0x18, 0x19, 0x1A, 0x1B]
  | .k2 => #v[0x00, 0x01, 0x10, 0x11, 0x04, 0x05, 0x14, 0x15,
              0x08, 0x09, 0x18, 0x19, 0x0C, 0x0D, 0x1C, 0x1D]
  | .k1 => #v[0x00, 0x10, 0x02, 0x12, 0x04, 0x14, 0x06, 0x16,
              0x08, 0x18, 0x0A, 0x1A, 0x0C, 0x1C, 0x0E, 0x1E]

/-- `PERM_ROM`, the arrays `SWZ_P1[k]` (10_state R23). -/
def swzP1 : BlockSize → IndexArray
  | .k16 => #v[0x10, 0x11, 0x12, 0x13, 0x14, 0x15, 0x16, 0x17,
               0x18, 0x19, 0x1A, 0x1B, 0x1C, 0x1D, 0x1E, 0x1F]
  | .k8 => #v[0x08, 0x09, 0x0A, 0x0B, 0x0C, 0x0D, 0x0E, 0x0F,
              0x18, 0x19, 0x1A, 0x1B, 0x1C, 0x1D, 0x1E, 0x1F]
  | .k4 => #v[0x04, 0x05, 0x06, 0x07, 0x14, 0x15, 0x16, 0x17,
              0x0C, 0x0D, 0x0E, 0x0F, 0x1C, 0x1D, 0x1E, 0x1F]
  | .k2 => #v[0x02, 0x03, 0x12, 0x13, 0x06, 0x07, 0x16, 0x17,
              0x0A, 0x0B, 0x1A, 0x1B, 0x0E, 0x0F, 0x1E, 0x1F]
  | .k1 => #v[0x01, 0x11, 0x03, 0x13, 0x05, 0x15, 0x07, 0x17,
              0x09, 0x19, 0x0B, 0x1B, 0x0D, 0x1D, 0x0F, 0x1F]

/-- `ILV_ROM`, the array `ILV_P0` (10_state R24). -/
def ilvP0 : IndexArray :=
  #v[0x00, 0x10, 0x01, 0x11, 0x02, 0x12, 0x03, 0x13,
     0x04, 0x14, 0x05, 0x15, 0x06, 0x16, 0x07, 0x17]

/-- `ILV_ROM`, the array `ILV_P1` (10_state R24). -/
def ilvP1 : IndexArray :=
  #v[0x08, 0x18, 0x09, 0x19, 0x0A, 0x1A, 0x0B, 0x1B,
     0x0C, 0x1C, 0x0D, 0x1D, 0x0E, 0x1E, 0x0F, 0x1F]

/-- `SEQ_ROM`: the 13 control words of the fixed sequence, indexed by `step` (10_state R25,
30_encoding R55). -/
def seqRom : List ControlWord :=
  [0x20, 0x50, 0x70, 0x48, 0x68, 0x44, 0x64, 0x42, 0x62, 0x41, 0x61, 0x80, 0xA0]

/-- The place of a control word in `SEQ_ROM`; 13 for a word that stands nowhere in it. -/
def seqIndexOf (cw : ControlWord) : Nat := seqRom.findIdx (· == cw)

end Sys2Proof.Machine
end

