-- ==== Sys2Proof/Machine/Operands.lean ====
section
/-! DEFINITION. The operand forms: the row of a lane (40_load_store R63), the lane of a row
(20_memory R31), a position of the two working vectors (00_scope R8(h), R9; 30_encoding R51). -/

namespace Sys2Proof.Machine

/-- The effective row index of lane `l` of vector `d`: `16*d + l` (40_load_store R63). -/
def effectiveRow (d : Fin 2) (l : Fin 16) : Nat := 16 * d.val + l.val

/-- The lane of row `i`: `i mod 16` (20_memory R31). -/
def laneOfRow (i : Nat) : Fin 16 := ⟨i % 16, Nat.mod_lt i (by decide)⟩

/-- The vector of row `i` is the one numbered 1: `floor(i / 16)` is not 0 (20_memory R31). -/
def rowInUpperVector (i : Nat) : Bool := decide (16 ≤ i)

/-- Row `i` of the 32 rows that two vectors hold, `a0` rows 0..15 and `a1` rows 16..31
(20_memory R31, R38). -/
def rowOfVectors (a0 a1 : Lanes) (i : Nat) : Word :=
  if rowInUpperVector i then a1[laneOfRow i] else a0[laneOfRow i]

/-- Field `lane` of an index entry (30_encoding R51). -/
def idxLane (p : Idx5) : Fin 16 := ⟨p.toNat % 16, Nat.mod_lt _ (by decide)⟩

/-- Field `d` of an index entry: set when the position lies in `V1` (30_encoding R51). -/
def idxVector (p : Idx5) : Bool := p.getLsbD 4

/-- `CAT[p]`: `V0[p]` when `p < 16`, `V1[p-16]` when `p >= 16` (00_scope R9). -/
def State.cat (s : State) (p : Idx5) : Word :=
  if idxVector p then s.v1[idxLane p] else s.v0[idxLane p]

end Sys2Proof.Machine
end

