-- ==== Sys2Proof/Machine/Ops.lean ====
section
/-! DEFINITION. The shared operations: the matrix space, the lane permutation, the masked merge, the
fetch and the sequencer's advance, and the reset input. The engine raises no exception and has no
trap entry and no return (60_exceptions R100, R104, R105), so there is no such operation here. -/

namespace Sys2Proof.Machine

/-! ### The matrix space (20_memory R30) -/

/-- What row `i` holds: its listed word, or what an unlisted row reads as. -/
def Memory.lookup : Memory → Nat → Word
  | [], _ => unlistedRow
  | (j, w) :: m, i => if i = j then w else Memory.lookup m i

/-- Put the word `w` at row `i`, keeping the canonical form. -/
def Memory.put : Memory → Nat → Word → Memory
  | [], i, w => if w = unlistedRow then [] else [(i, w)]
  | (j, x) :: m, i, w =>
    if i < j then (if w = unlistedRow then (j, x) :: m else (i, w) :: (j, x) :: m)
    else if i = j then (if w = unlistedRow then m else (i, w) :: m)
    else (j, x) :: Memory.put m i w

/-- The canonical buffer whose row `i` is `f i`, for the 32 rows. -/
def Memory.ofRows (f : Nat → Word) : Memory :=
  (List.range 32).filterMap fun i => if f i = unlistedRow then none else some (i, f i)

/-- `MemRead(i, 32)`: defined only for `i` in 0..31 (20_memory R30; 95 X5). -/
def memRead (m : Memory) (i : Nat) : Option Word :=
  if rowIndexWf i then some (m.lookup i) else none

/-- `MemWrite(i, 32, w)`: defined only for `i` in 0..31 (20_memory R30). -/
def memWrite (m : Memory) (i : Nat) (w : Word) : Option Memory :=
  if rowIndexWf i then some (m.put i w) else none

/-! ### Named updates of the state -/

/-- Write every lane of `V0` and `V1` (10_state R14: no partial write). -/
def State.withV (s : State) (a0 a1 : Lanes) : State := { s with v0 := a0, v1 := a1 }

/-- Write every lane of `P0` and `P1` (10_state R14). -/
def State.withP (s : State) (a0 a1 : Lanes) : State := { s with p0 := a0, p1 := a1 }

/-- Replace the matrix buffer. -/
def State.withMat (s : State) (m : Memory) : State := { s with mat := m }

/-- Hand a value back to the host (20_memory R42). -/
def State.withAnswer (s : State) (a : Answer) : State := { s with answer := some a }

/-- Replace the host's moves still to come. -/
def State.withScript (s : State) (ticks : List Tick) : State := { s with script := ticks }

/-! ### Data movement -/

/-- All 32 rows into `V0` and `V1`, read as one snapshot (40_load_store R61, 20_memory R36). -/
def loadVectors (s : State) : State :=
  s.withV (Vector.ofFn fun l => s.mat.lookup (effectiveRow 0 l))
    (Vector.ofFn fun l => s.mat.lookup (effectiveRow 1 l))

/-- All 32 rows of `MAT` from `P0` and `P1`, written as one update; the old content is lost
(40_load_store R62, 20_memory R36). -/
def storeVectors (s : State) : State :=
  s.withMat (Memory.ofRows (rowOfVectors s.p0 s.p1))

/-- `permute(A0, A1)` (41_swizzle R64). -/
def permute (a0 a1 : IndexArray) (s : State) : State :=
  s.withP (Vector.ofFn fun l => s.cat a0[l]) (Vector.ofFn fun l => s.cat a1[l])

/-! ### The masked merge (42_merge R74, R76); all shifts are logical -/

/-- `new1 = (P1[l] & m) | ((P0[l] >> k) & ~m)`. -/
def mergeHi (k : BlockSize) (p0 p1 : Word) : Word :=
  (p1 &&& maskRom k) ||| ((p0 >>> blockSize k) &&& ~~~(maskRom k))

/-- `new0 = (P0[l] & ~m) | ((P1[l] << k) & m)`. -/
def mergeLo (k : BlockSize) (p0 p1 : Word) : Word :=
  (p0 &&& ~~~(maskRom k)) ||| ((p1 <<< blockSize k) &&& maskRom k)

/-- `merge(k)`: every lane of `V0` and `V1` from the same lane of `P0` and `P1` (42_merge R76). -/
def merge (k : BlockSize) (s : State) : State :=
  s.withV (Vector.ofFn fun l => mergeLo k s.p0[l] s.p1[l])
    (Vector.ofFn fun l => mergeHi k s.p0[l] s.p1[l])

/-! ### The sequencer (10_state R17) -/

/-- `cw <- SEQ_ROM[step]`; nothing where `step` is 13, 14 or 15 (93 U12). -/
def fetch (s : State) : Option ControlWord := seqRom[s.step.toNat]?

/-- The end of a transition: after step 12 the run is complete, else `step <- step + 1`. -/
def advance (s : State) : State :=
  if s.step = 12 then s.completeSequencer else s.withSequencer s.busy s.done (s.step + 1)

/-! ### The reset input (70_reset R113 to R115) -/

/-- Sixteen lanes of free values, drawn from number `n` on (93 U4). -/
def freeLanes (n : Nat) : Lanes := Vector.ofFn fun l => Config.freeLane (n + l.val)

/-- The vector registers become unspecified: 64 free values, drawn one after the other (log 3).
DESIGN CHOICE (log 24): every engine and every run draws from the one stream `Config.freeLane` at its own
`freeCount`, so two states with equal `freeCount` hold equal registers after a reset. The spec leaves
open whether they agree (93 U4, 60_exceptions R108); nothing may be claimed from it. -/
def State.scramble (s : State) : State :=
  { s with
    v0 := freeLanes s.freeCount
    v1 := freeLanes (s.freeCount + 16)
    p0 := freeLanes (s.freeCount + 32)
    p1 := freeLanes (s.freeCount + 48)
    freeCount := s.freeCount + 64 }

/-- The reset transition: the sequencer at its reset values, the vector registers unspecified, `MAT`
unchanged (70_reset R114, R115). -/
def resetEngine (s : State) : State := s.scramble.resetSequencer

end Sys2Proof.Machine
end

