-- ==== Sys2Proof/Machine/LoadStore.lean ====
section
/-! DEFINITION. The meanings of `LOAD` and `STORE` (40_load_store R60 to R63). A meaning is the data
movement; the sequencer's advance after it is `engineTransition`'s (10_state R17, log 13). -/

namespace Sys2Proof.Machine

/-- `LOAD` (40_load_store R61). -/
def execLoad (s : State) : Host.Outcome State Fault Refusal := .next (loadVectors s)

/-- `STORE` (40_load_store R62). -/
def execStore (s : State) : Host.Outcome State Fault Refusal := .next (storeVectors s)

end Sys2Proof.Machine
end

