-- ==== Sys2Proof/Machine/Merge.lean ====
section
/-! DEFINITION. The meanings of the five masked merges (42_merge R76, R78 to R82). -/

namespace Sys2Proof.Machine

/-- `MRG16` (42_merge R78). -/
def execMrg16 (s : State) : Host.Outcome State Fault Refusal := .next (merge .k16 s)

/-- `MRG8` (42_merge R79). -/
def execMrg8 (s : State) : Host.Outcome State Fault Refusal := .next (merge .k8 s)

/-- `MRG4` (42_merge R80). -/
def execMrg4 (s : State) : Host.Outcome State Fault Refusal := .next (merge .k4 s)

/-- `MRG2` (42_merge R81). -/
def execMrg2 (s : State) : Host.Outcome State Fault Refusal := .next (merge .k2 s)

/-- `MRG1` (42_merge R82). -/
def execMrg1 (s : State) : Host.Outcome State Fault Refusal := .next (merge .k1 s)

end Sys2Proof.Machine
end

