-- ==== Sys2Proof/Machine/Swizzle.lean ====
section
/-! DEFINITION. The meanings of the five stage swizzles and of the final interleave
(41_swizzle R64, R68 to R73). -/

namespace Sys2Proof.Machine

/-- `SWZ16` (41_swizzle R68): the identity copy, kept as a step of its own. -/
def execSwz16 (s : State) : Host.Outcome State Fault Refusal :=
  .next (permute (swzP0 .k16) (swzP1 .k16) s)

/-- `SWZ8` (41_swizzle R69). -/
def execSwz8 (s : State) : Host.Outcome State Fault Refusal :=
  .next (permute (swzP0 .k8) (swzP1 .k8) s)

/-- `SWZ4` (41_swizzle R70). -/
def execSwz4 (s : State) : Host.Outcome State Fault Refusal :=
  .next (permute (swzP0 .k4) (swzP1 .k4) s)

/-- `SWZ2` (41_swizzle R71). -/
def execSwz2 (s : State) : Host.Outcome State Fault Refusal :=
  .next (permute (swzP0 .k2) (swzP1 .k2) s)

/-- `SWZ1` (41_swizzle R72). -/
def execSwz1 (s : State) : Host.Outcome State Fault Refusal :=
  .next (permute (swzP0 .k1) (swzP1 .k1) s)

/-- `ILV`, the final interleave (41_swizzle R73). -/
def execIlv (s : State) : Host.Outcome State Fault Refusal :=
  .next (permute ilvP0 ilvP1 s)

end Sys2Proof.Machine
end

