-- ==== Sys2Proof/Machine/Dispatch.lean ====
section
/-! DEFINITION. One arm per micro-operation: the meaning it has (30_encoding R53). -/

namespace Sys2Proof.Machine

def exec (i : Instr) (s : State) : Host.Outcome State Fault Refusal :=
  match i with
  | .load => Sys2Proof.Machine.execLoad s
  | .swz16 => Sys2Proof.Machine.execSwz16 s
  | .mrg16 => Sys2Proof.Machine.execMrg16 s
  | .swz8 => Sys2Proof.Machine.execSwz8 s
  | .mrg8 => Sys2Proof.Machine.execMrg8 s
  | .swz4 => Sys2Proof.Machine.execSwz4 s
  | .mrg4 => Sys2Proof.Machine.execMrg4 s
  | .swz2 => Sys2Proof.Machine.execSwz2 s
  | .mrg2 => Sys2Proof.Machine.execMrg2 s
  | .swz1 => Sys2Proof.Machine.execSwz1 s
  | .mrg1 => Sys2Proof.Machine.execMrg1 s
  | .ilv => Sys2Proof.Machine.execIlv s
  | .store => Sys2Proof.Machine.execStore s

end Sys2Proof.Machine
end

