-- ==== Sys2Proof/Machine/Sequencer.lean ====
section
/-! DEFINITION. One transition of the engine (10_state R17). -/

namespace Sys2Proof.Machine

/-- Execute a fetched control word and advance the sequencer (10_state R17). A reserved word is
refused by name (30_encoding R54); `SEQ_ROM` holds none. -/
def runWord (cw : ControlWord) (s : State) : Host.Outcome State Fault Refusal :=
  match decode cw with
  | .reserved _ => .refused (.reservedWord cw)
  | .instr i =>
    match exec i s with
    | .next t => .next (advance t)
    | .fault f => .fault f
    | .refused r => .refused r

/-- One transition of the engine: while busy, fetch `SEQ_ROM[step]`, execute it and advance; idle, it
"takes no transition of its own" and nothing changes (10_state R17, log 6). -/
def engineTransition (s : State) : Host.Outcome State Fault Refusal :=
  if s.busy then
    match fetch s with
    | none => .refused (.noSuchStep s.step.toNat)
    | some cw => runWord cw s
  else .next s

end Sys2Proof.Machine
end

