-- ==== Sys2Proof/Machine/HostPort.lean ====
section
/-! DEFINITION. The host's side of the interface (20_memory R42; 70_reset R113, R119 to R121;
60_exceptions R106, R112): each move, its precondition, and one tick of the interface. -/

namespace Sys2Proof.Machine

/-- The start command: its precondition is `busy = 0` (10_state R18); otherwise it has no meaning
(70_reset R120, 93 U2). -/
def hostStart (s : State) : Host.Outcome State Fault Refusal :=
  if s.busy then .refused .startWhileBusy else .next s.startSequencer

/-- Write row `i`, when not busy (20_memory R42; 93 U1). -/
def hostWrite (i : Nat) (w : Word) (s : State) : Host.Outcome State Fault Refusal :=
  if s.busy then .refused .rowWriteWhileBusy
  else
    match memWrite s.mat i w with
    | some m => .next (s.withMat m)
    | none => .refused (.noSuchRow i)

/-- Read row `i`, when not busy; reading has no side effect on the engine (20_memory R37, R42;
93 U1). -/
def hostRead (i : Nat) (s : State) : Host.Outcome State Fault Refusal :=
  if s.busy then .refused .rowReadWhileBusy
  else
    match memRead s.mat i with
    | some w => .next (s.withAnswer (.row w))
    | none => .refused (.noSuchRow i)

/-- Read `busy`: always allowed (20_memory R42, 93 U13). -/
def hostReadBusy (s : State) : Host.Outcome State Fault Refusal := .next (s.withAnswer (.bit s.busy))

/-- Read `done`: always allowed (20_memory R42, 93 U13). -/
def hostReadDone (s : State) : Host.Outcome State Fault Refusal := .next (s.withAnswer (.bit s.done))

/-- A move of the host with reset not asserted; when the host is silent the engine moves. -/
def hostMove (m : HostMove) (s : State) : Host.Outcome State Fault Refusal :=
  match m with
  | .pass => engineTransition s
  | .start => hostStart s
  | .writeRow i w => hostWrite i w s
  | .readRow i => hostRead i s
  | .readBusy => hostReadBusy s
  | .readDone => hostReadDone s

/-- One tick. Reset has priority over everything: whatever falls together with it is lost, and the
engine takes no step (70_reset R113, 60_exceptions R103(a), log 8). -/
def runTick (t : Tick) (s : State) : Host.Outcome State Fault Refusal :=
  if t.reset then .next (resetEngine s) else hostMove t.move s

/-- The next transition of engine and host together: the first tick of the script if there is one,
else the host is silent and the engine moves (log 7). -/
def transition (s : State) : Host.Outcome State Fault Refusal :=
  match s.script with
  | [] => engineTransition s
  | t :: rest => runTick t (s.withScript rest)

/-- A platform's map from its bus operations to ticks: the open parameter `HOST_MAP` (20_memory R38,
92 D11), taken as an argument. -/
abbrev HostMap (BusOp : Type) := BusOp → Tick

/-- What `HOST_MAP` must give: a handle for each of the abstract moves, with any of the 32 rows and
any whole 32-bit word, and for reset (92, "The open parameters in one place").
DESIGN CHOICE (log 23): a handle for the host's silence (`.pass` without reset) is asked for too. The
spec names the six moves only; silence is a seventh operation here so that a list of bus operations can
say when the engine steps. -/
def hostMapComplete {BusOp : Type} (hostMap : HostMap BusOp) : Prop :=
  (∀ m : HostMove, (∀ i, m = .readRow i → i < 32) → (∀ i w, m = .writeRow i w → i < 32) →
      ∃ op, hostMap op = { reset := false, move := m }) ∧
    ∃ op, (hostMap op).reset = true

/-- Queue a platform's bus operations as the host's next moves. -/
def State.withBus {BusOp : Type} (s : State) (hostMap : HostMap BusOp) (ops : List BusOp) : State :=
  s.withScript (s.script ++ ops.map hostMap)

end Sys2Proof.Machine
end

