-- ==== Sys2Proof/Machine/Step.lean ====
section
/-! DEFINITION. The step of the machine, and the state whose next step runs a given control word. -/

namespace Sys2Proof.Machine

/-- One step: the next tick of the host's script, or a transition of the engine when the host is
silent. -/
def step (s : State) : Host.Outcome State Fault Refusal := transition s

/-- `s` set so that the very next step runs the control word `w` of `nbits` bits: the host silent, the
engine busy, and `step` at the word's place in `SEQ_ROM`. The sequence is a hardwired table that
nothing can write (20_memory R43), so a reserved word has no place: `step` is then 15 and the next
step is refused (log 12). -/
def State.withFetchWord (s : State) (nbits w : Nat) : State :=
  match tableWord nbits w with
  | some cw =>
    { s with
      busy := true
      step := if seqIndexOf cw < 13 then BitVec.ofNat 4 (seqIndexOf cw) else 15
      script := [] }
  | none => { s with busy := true, step := 15, script := [] }

end Sys2Proof.Machine
end

