-- ==== Sys2Proof/Machine/Assembly.lean ====
section
/-! DEFINITION. The assembly text of the micro-operations (30_encoding R58) and the expansion of the
pseudo-instructions (R59). No assembler exists and the engine accepts no program (92 D16): these name
things. -/

namespace Sys2Proof.Machine

/-- The mnemonic of a micro-operation, upper case, the block size a decimal suffix (R58). -/
def mnemonic : Instr → List Char
  | .load => ['L', 'O', 'A', 'D']
  | .swz16 => ['S', 'W', 'Z', '1', '6']
  | .mrg16 => ['M', 'R', 'G', '1', '6']
  | .swz8 => ['S', 'W', 'Z', '8']
  | .mrg8 => ['M', 'R', 'G', '8']
  | .swz4 => ['S', 'W', 'Z', '4']
  | .mrg4 => ['M', 'R', 'G', '4']
  | .swz2 => ['S', 'W', 'Z', '2']
  | .mrg2 => ['M', 'R', 'G', '2']
  | .swz1 => ['S', 'W', 'Z', '1']
  | .mrg1 => ['M', 'R', 'G', '1']
  | .ilv => ['I', 'L', 'V']
  | .store => ['S', 'T', 'O', 'R', 'E']

/-- `STAGE k` is `SWZk` then `MRGk` (R59, 43_transpose R87). -/
def expandStage (k : BlockSize) : List Instr := [swzOf k, mrgOf k]

/-- The expansion of a pseudo-instruction (R59). -/
def expand : Pseudo → List Instr
  | .stage k => expandStage k
  | .transpose => [.load] ++ stageOrder.flatMap expandStage ++ [.ilv, .store]

/-- The text of a pseudo-instruction: `STAGE` and the block size in decimal, or `TRANSPOSE` (R59). -/
def pseudoText : Pseudo → List Char
  | .stage .k16 => ['S', 'T', 'A', 'G', 'E', ' ', '1', '6']
  | .stage .k8 => ['S', 'T', 'A', 'G', 'E', ' ', '8']
  | .stage .k4 => ['S', 'T', 'A', 'G', 'E', ' ', '4']
  | .stage .k2 => ['S', 'T', 'A', 'G', 'E', ' ', '2']
  | .stage .k1 => ['S', 'T', 'A', 'G', 'E', ' ', '1']
  | .transpose => ['T', 'R', 'A', 'N', 'S', 'P', 'O', 'S', 'E']

/-- Every micro-operation, in the order of the sequence (30_encoding R53, R55). -/
def allInstrs : List Instr :=
  [.load, .swz16, .mrg16, .swz8, .mrg8, .swz4, .mrg4, .swz2, .mrg2, .swz1, .mrg1, .ilv, .store]

/-- What each legal line stands for: a mnemonic itself, a pseudo-instruction its expansion. -/
def lineTable : List (List Char × List Instr) :=
  allInstrs.map (fun i => (mnemonic i, [i])) ++
    (stageOrder.map Pseudo.stage ++ [Pseudo.transpose]).map (fun p => (pseudoText p, expand p))

/-- A comment starts with `--` and runs to the end of the line (R58). -/
def stripComment : List Char → List Char
  | [] => []
  | '-' :: '-' :: _ => []
  | c :: cs => c :: stripComment cs

/-- Blanks around a mnemonic do not count (DESIGN CHOICE, log 19). -/
def trimBlanks (cs : List Char) : List Char :=
  ((cs.dropWhile (· == ' ')).reverse.dropWhile (· == ' ')).reverse

/-- One line of assembly text: nothing on a blank or comment line, else what its table entry stands
for, and `none` where the text is no mnemonic (R58, R59). -/
def assembleLine (line : List Char) : Option (List Instr) :=
  match trimBlanks (stripComment line) with
  | [] => some []
  | text => (lineTable.find? (fun e => e.1 == text)).map (·.2)

/-- A text, one line after the other (R58: "one per line"). -/
def assemble : List (List Char) → Option (List Instr)
  | [] => some []
  | line :: rest =>
    match assembleLine line, assemble rest with
    | some a, some b => some (a ++ b)
    | _, _ => none

end Sys2Proof.Machine
end

