-- ==== Sys2Proof/Machine/Instances.lean ====
section
/-! DEFINITION. Several engines (60_exceptions R108, R109): n independent copies of the one-engine
machine, any of which may step at any time; there is no shared state, no identifier and no signal
between them. -/

namespace Sys2Proof.Machine

/-- The engines of a platform; each holds its own `MAT`, vector registers and sequencer. Their free
values after a reset come from one stream (DESIGN CHOICE, log 24). -/
abbrev Engines := List State

/-- Engine number `n` takes one step; a number that names no engine has nothing to step. -/
def stepEngine (n : Nat) (es : Engines) : Host.Outcome Engines Fault Refusal :=
  match es[n]? with
  | none => .next es
  | some s =>
    match step s with
    | .next t => .next (es.set n t)
    | .fault f => .fault f
    | .refused r => .refused r

/-- The engines step in the order a schedule names them. -/
def runEngines : List Nat → Engines → Host.Outcome Engines Fault Refusal
  | [], es => .next es
  | n :: rest, es =>
    match stepEngine n es with
    | .next es' => runEngines rest es'
    | .fault f => .fault f
    | .refused r => .refused r

end Sys2Proof.Machine
end

