-- ==== Sys2Proof/Machine/Reference.lean ====
section
/-! DEFINITION. The spec's own mathematics of the transform, in whose terms the claims speak: the
contract `T` (43_transpose R85), the classical scalar algorithm (42_merge R83), the lane-to-row map
(41_swizzle R66), the pairing requirement for any family of index arrays (R67, 43_transpose R95), the
one-transition view (R88) and lane-by-lane processing (41_swizzle R65). The machine's step uses none
of it. -/

namespace Sys2Proof.Machine

/-- A matrix as its rows; only rows 0..31 count (10_state R10). -/
abbrev Rows := Nat → Word

/-- Row `i` of `T(M)`: the OR over `j` in 0..31 of `M[j].bit(i) << j` (43_transpose R85). -/
def transposedRow (m : Rows) (i : Nat) : Word :=
  (List.range 32).foldl (fun acc j => acc ||| (if (m j).getLsbD i then (1 : Word) <<< j else 0)) 0

/-- One scalar stage `S_k`: rows `r` and `r + k`, `r & k = 0`, exchange their `k`-bit blocks
(42_merge R83). -/
def scalarStage (k : BlockSize) (a : Rows) (r : Nat) : Word :=
  if r.testBit (blockLog2 k) then
    (a r &&& maskRom k) ||| ((a (r - blockSize k) >>> blockSize k) &&& ~~~(maskRom k))
  else
    (a r &&& ~~~(maskRom k)) ||| ((a (r + blockSize k) <<< blockSize k) &&& maskRom k)

/-- `A_2k`: what the scalar algorithm holds before stage `k`; `A_32` is the operand (42_merge R83). -/
def scalarBefore (m : Rows) : BlockSize → Rows
  | .k16 => m
  | .k8 => scalarStage .k16 m
  | .k4 => scalarStage .k8 (scalarStage .k16 m)
  | .k2 => scalarStage .k4 (scalarStage .k8 (scalarStage .k16 m))
  | .k1 => scalarStage .k2 (scalarStage .k4 (scalarStage .k8 (scalarStage .k16 m)))

/-- `A_k`: what the scalar algorithm holds after stage `k` (42_merge R83). -/
def scalarAfter (m : Rows) (k : BlockSize) : Rows := scalarStage k (scalarBefore m k)

/-- `ROW_k(d, l)`: the logical row at lane `l` of vector `d` (41_swizzle R66). -/
def rowMap (k : BlockSize) (d l : Nat) : Nat :=
  ((l >>> blockLog2 k) <<< (blockLog2 k + 1)) ||| (d <<< blockLog2 k) ||| (l &&& (blockSize k - 1))

/-- The lane-to-row map of the working vectors when stage `k` begins: what `LOAD` left at stage 16, else
what the stage before left (41_swizzle R66). -/
def rowMapBefore : BlockSize → Nat → Nat → Nat
  | .k16 => fun d l => 16 * d + l
  | .k8 => rowMap .k16
  | .k4 => rowMap .k8
  | .k2 => rowMap .k4
  | .k1 => rowMap .k2

/-- The number `i` with its bit `b` replaced by `v` (43_transpose R91). -/
def withBit (i b : Nat) (v : Bool) : Nat :=
  i - (if i.testBit b then 2 ^ b else 0) + (if v then 2 ^ b else 0)

/-! ### Any family of index arrays (41_swizzle R67, 43_transpose R95) -/

/-- The position of lane `l` of vector `d` (00_scope R8(h)). -/
def positionOf (d : Fin 2) (l : Fin 16) : Idx5 := BitVec.ofNat 5 (effectiveRow d l)

/-- Which logical row each position holds. -/
abbrev RowsAt := Idx5 → Nat

/-- The lane-to-row map after a permutation by the arrays `a`. -/
def movedRows (a : IndexArray × IndexArray) (rows : RowsAt) : RowsAt := fun p =>
  rows (if idxVector p then a.2[idxLane p] else a.1[idxLane p])

/-- The pairing requirement of stage `k`: at every lane, vector 1 holds the row `k` above vector 0's,
whose bit `log2 k` is clear (41_swizzle R67). -/
def pairedFor (k : BlockSize) (rows : RowsAt) : Bool :=
  (List.finRange 16).all fun l =>
    rows (positionOf 1 l) == rows (positionOf 0 l) + blockSize k &&
      !(rows (positionOf 0 l)).testBit (blockLog2 k)

/-- After the final permutation, logical row `16*d + l` is at lane `l` of vector `d`. -/
def ascending (rows : RowsAt) : Bool :=
  (List.finRange 16).all fun l =>
    rows (positionOf 0 l) == effectiveRow 0 l && rows (positionOf 1 l) == effectiveRow 1 l

/-- The lane-to-row map after the swizzles of the stages `ks`, or `none` where one of them misses its
pairing requirement. -/
def pairRows (family : BlockSize → IndexArray × IndexArray) :
    List BlockSize → RowsAt → Option RowsAt
  | [], rows => some rows
  | k :: ks, rows =>
    if pairedFor k (movedRows (family k) rows) then pairRows family ks (movedRows (family k) rows)
    else none

/-- The family meets the pairing requirement at every stage and `final` restores ascending order. -/
def familyFits (family : BlockSize → IndexArray × IndexArray) (final : IndexArray × IndexArray) :
    Bool :=
  match pairRows family stageOrder (fun p => p.toNat) with
  | some rows => ascending (movedRows final rows)
  | none => false

/-- The data movement of a whole `TRANSPOSE` with the index arrays of `family` and `final` in place of
`PERM_ROM` and `ILV_ROM`. -/
def transposeWith (family : BlockSize → IndexArray × IndexArray) (final : IndexArray × IndexArray)
    (s : State) : State :=
  storeVectors (permute final.1 final.2
    (stageOrder.foldl (fun t k => merge k (permute (family k).1 (family k).2 t)) (loadVectors s)))

/-- `PERM_ROM` as a family. -/
def romFamily (k : BlockSize) : IndexArray × IndexArray := (swzP0 k, swzP1 k)

/-! ### The one-transition view (43_transpose R88) -/

/-- On start, when idle: `MAT <- T(MAT)`, `done <- 1`; `busy` stays 0 and `step` stays 0. -/
def transposeAtOnce (s : State) : State :=
  { s with mat := Memory.ofRows (transposedRow s.mat.lookup), done := true }

/-! ### Lanes one after another (41_swizzle R65) -/

/-- `LOAD`, lane `l` only. -/
def loadLane (s : State) (l : Fin 16) : State :=
  s.withV (s.v0.set l (s.mat.lookup (effectiveRow 0 l)))
    (s.v1.set l (s.mat.lookup (effectiveRow 1 l)))

/-- `STORE`, lane `l` only: its two `MemWrite`s (40_load_store R62). -/
def storeLane (s : State) (l : Fin 16) : State :=
  s.withMat ((s.mat.put (effectiveRow 0 l) s.p0[l]).put (effectiveRow 1 l) s.p1[l])

/-- `permute`, lane `l` only. -/
def permuteLane (a0 a1 : IndexArray) (s : State) (l : Fin 16) : State :=
  s.withP (s.p0.set l (s.cat a0[l])) (s.p1.set l (s.cat a1[l]))

/-- `merge(k)`, lane `l` only. -/
def mergeLane (k : BlockSize) (s : State) (l : Fin 16) : State :=
  s.withV (s.v0.set l (mergeLo k s.p0[l] s.p1[l])) (s.v1.set l (mergeHi k s.p0[l] s.p1[l]))

/-! ### Words counted and added -/

/-- How many of the 32 bits are 1 (43_transpose R98). -/
def onesOf (w : Word) : Nat := (List.range 32).countP fun b => w.getLsbD b

/-- How many entries are 1 in two vectors. -/
def onesOfVectors (a0 a1 : Lanes) : Nat := ((a0.toList ++ a1.toList).map onesOf).sum

/-- How many entries are 1 in a matrix. -/
def onesOfMatrix (m : Memory) : Nat := ((List.range 32).map fun i => onesOf (m.lookup i)).sum

/-- Bitwise XOR "applied word-by-word" to the data of two states; all else is the first state's
(43_transpose R94). -/
def xorState (s t : State) : State :=
  { s with
    mat := Memory.ofRows fun i => s.mat.lookup i ^^^ t.mat.lookup i
    v0 := Vector.ofFn fun l => s.v0[l] ^^^ t.v0[l]
    v1 := Vector.ofFn fun l => s.v1[l] ^^^ t.v1[l]
    p0 := Vector.ofFn fun l => s.p0[l] ^^^ t.p0[l]
    p1 := Vector.ofFn fun l => s.p1[l] ^^^ t.p1[l] }

end Sys2Proof.Machine
end

