-- ==== Sys2Proof/Safety.lean ====
section
/-! DEFINITION. What the claims call a legal state, a host that keeps the rules, a run, and what the
host can see. -/

namespace Sys2Proof.Machine

/-- The invariant of the machine: `step` is one of 0..12 and is 0 when idle; `done` is never set while
busy (10_state R16, R17; 93 U12, U13); the matrix buffer is in canonical form. -/
def State.legal (s : State) : Bool :=
  decide (s.step.toNat ≤ 12) && (s.busy || s.step == 0) && !(s.busy && s.done) && s.mat.wf

/-- The host keeps to 20_memory R42 in this tick: no row access and no start while busy, and every
row index in 0..31. Reset and the status reads are always allowed. -/
def Tick.allowed (t : Tick) (s : State) : Bool :=
  t.reset ||
    match t.move with
    | .pass => true
    | .start => !s.busy
    | .writeRow i _ => !s.busy && rowIndexWf i
    | .readRow i => !s.busy && rowIndexWf i
    | .readBusy => true
    | .readDone => true

/-- The next tick of the script, if there is one, keeps to 20_memory R42. -/
def State.hostKeepsRules (s : State) : Bool :=
  match s.script with
  | [] => true
  | t :: _ => t.allowed s

/-- A step that answers a next state. -/
def goesOn (o : Host.Outcome State Fault Refusal) : Prop := ∃ t, o = .next t

/-- `n` steps of the machine. -/
def run (n : Nat) (s : State) : Host.Outcome State Fault Refusal := Host.Core.run Sys2Proof.core n s

/-- The host issues start as its next and only move. -/
def startOnly : List Tick := [{ reset := false, move := .start }]

/-- What the host can see of the engine: the 32 rows, `busy` and `done` (10_state R29: 1026 bits). -/
structure HostView where
  rows : List Word
  busy : Bool
  done : Bool
deriving DecidableEq, Repr

/-- The host's view of a state. -/
def State.hostView (s : State) : HostView :=
  { rows := (List.range 32).map s.mat.lookup, busy := s.busy, done := s.done }

/-- What a host that keeps the rules asks of the engine, each request carried through to its end
(70_reset R117): a `transpose` request is a start and the wait for completion. -/
inductive HostCall where
  | write (i : Fin 32) (w : Word)
  | read (i : Fin 32)
  | readBusy
  | readDone
  | transpose
  | reset
deriving DecidableEq, Repr

/-- A tick in which the host is silent and reset is not asserted. -/
def silentTick : Tick := { reset := false, move := .pass }

/-- A tick that asserts reset and nothing else. -/
def resetTick : Tick := { reset := true, move := .pass }

/-- The ticks of a request on the stepwise machine: a `transpose` waits for its 13 steps. -/
def HostCall.ticks : HostCall → List Tick
  | .write i w => [{ reset := false, move := .writeRow i.val w }]
  | .read i => [{ reset := false, move := .readRow i.val }]
  | .readBusy => [{ reset := false, move := .readBusy }]
  | .readDone => [{ reset := false, move := .readDone }]
  | .transpose => startOnly ++ List.replicate 13 silentTick
  | .reset => [resetTick]

/-- The same request on the one-transition machine of 43_transpose R88, which knows neither `step` nor
the vector registers. -/
def HostCall.atOnce (c : HostCall) (s : State) : State :=
  match c with
  | .write i w => s.withMat (s.mat.put i.val w)
  | .read i => s.withAnswer (.row (s.mat.lookup i.val))
  | .readBusy => s.withAnswer (.bit s.busy)
  | .readDone => s.withAnswer (.bit s.done)
  | .transpose => transposeAtOnce s
  | .reset => s.resetSequencer

/-- What `n` steps of the engine take at `STEP_TIME` each (70_reset R126; log 11). -/
def stepsDuration (n : Nat) : Nat := n * Config.stepTime

end Sys2Proof.Machine
end

