-- ==== Sys2Proof/Certificates/Slice0/Obligations.lean ====
section
/-! DEFINITION. The statements for the provers, from the numbered rules of `spec/`. -/

open Sys2Proof Sys2Proof.Machine

/-! ### Encodings and tables -/

/-- Six control words of 30_encoding R53, written out bit by bit, decode to what they stand for. -/
def Obligations.DecodeOfWrittenOutWords : Prop :=
  decode 0b00100000 = .instr .load ∧ decode 0b01010000 = .instr .swz16 ∧
    decode 0b01000001 = .instr .swz1 ∧ decode 0b01101000 = .instr .mrg8 ∧
    decode 0b10000000 = .instr .ilv ∧ decode 0b10100000 = .instr .store

/-- 30_encoding R53: the 13 words are those of the table, decoding an encoded micro-operation gives it
back, and a word that decodes is the encoding of what it decodes to (every bit of a legal word is
fixed). -/
def Obligations.OpcodeMapDecodesBothWays : Prop :=
  allInstrs.map encode =
      [0x20, 0x50, 0x70, 0x48, 0x68, 0x44, 0x64, 0x42, 0x62, 0x41, 0x61, 0x80, 0xA0] ∧
    (∀ i : Instr, i ∈ allInstrs) ∧
    (∀ i : Instr, decode (encode i) = .instr i) ∧
    ∀ (cw : ControlWord) (i : Instr), decode cw = .instr i → cw = encode i

/-- 30_encoding R54: a word is reserved exactly where `op` is 0, 6 or 7, or `LOAD`, `ILV`, `STORE` have
`k` not 0, or `SWZ`, `MRG` have `k` not one of the five block sizes; there are 96, 93 and 54 of them,
243 in all, and `SEQ_ROM` holds none. -/
def Obligations.ReservedWordsAreRefused : Prop :=
  (∀ cw : ControlWord, (∃ r, decode cw = .reserved r) ↔ (fieldsOf cw).wf = false) ∧
    ((List.range 256).filter fun n =>
        (fieldsOf (BitVec.ofNat 8 n)).op ∈ [(0 : BitVec 3), 6, 7]).length = 96 ∧
    ((List.range 256).filter fun n =>
        (fieldsOf (BitVec.ofNat 8 n)).op ∈ [(1 : BitVec 3), 4, 5] ∧
          (fieldsOf (BitVec.ofNat 8 n)).k ≠ 0).length = 93 ∧
    ((List.range 256).filter fun n =>
        (fieldsOf (BitVec.ofNat 8 n)).op ∈ [(2 : BitVec 3), 3] ∧
          (fieldsOf (BitVec.ofNat 8 n)).k ∉ [(16 : BitVec 5), 8, 4, 2, 1]).length = 54 ∧
    ((List.range 256).filter fun n => (fieldsOf (BitVec.ofNat 8 n)).wf = false).length = 243 ∧
    ∀ cw ∈ seqRom, (fieldsOf cw).wf = true

/-- 30_encoding R55 and R59: `SEQ_ROM` is the 104-bit string of the rule, its words decode to the 13
micro-operations of `TRANSPOSE` in order, and a pseudo-instruction expands as the table says. -/
def Obligations.SequenceRomSpellsTranspose : Prop :=
  seqRom = [0x20, 0x50, 0x70, 0x48, 0x68, 0x44, 0x64, 0x42, 0x62, 0x41, 0x61, 0x80, 0xA0] ∧
    decodeAll seqRom = (expand .transpose).map Decoded.instr ∧
    expand .transpose = [.load, .swz16, .mrg16, .swz8, .mrg8, .swz4, .mrg4, .swz2, .mrg2, .swz1,
      .mrg1, .ilv, .store] ∧
    ∀ k : BlockSize, expand (.stage k) = [swzOf k, mrgOf k]

/-- 30_encoding section 6: a mnemonic alone on a line, with or without a comment after it, stands for
its micro-operation; a pseudo-instruction for its expansion. (That a blank before the comment does not
count is the model's choice: log 19.) -/
def Obligations.AssemblyLinesStandForInstructions : Prop :=
  (∀ (i : Instr) (comment : List Char),
      assembleLine (mnemonic i) = some [i] ∧
        assembleLine (mnemonic i ++ ' ' :: '-' :: '-' :: comment) = some [i]) ∧
    ∀ p : Pseudo, assembleLine (pseudoText p) = some (expand p)

/-- 10_state R21: the five mask literals, their complements, and the bit formula. -/
def Obligations.StageMasksFollowTheirFormula : Prop :=
  stageOrder.map maskRom = [0xFFFF0000, 0xFF00FF00, 0xF0F0F0F0, 0xCCCCCCCC, 0xAAAAAAAA] ∧
    (stageOrder.map fun k => ~~~(maskRom k)) =
      [0x0000FFFF, 0x00FF00FF, 0x0F0F0F0F, 0x33333333, 0x55555555] ∧
    ∀ (k : BlockSize) (b : Nat), b < 32 →
      ((maskRom k).getLsbD b = true ↔ b / blockSize k % 2 = 1) ∧
        (maskRom k).getLsbD b = b.testBit (blockLog2 k)

/-- 42_merge R75: the mask laws (a) to (d), for every block size and every word. -/
def Obligations.MaskLaws : Prop :=
  ∀ k : BlockSize,
    (maskRom k &&& ~~~(maskRom k) = 0 ∧ maskRom k ||| ~~~(maskRom k) = 0xFFFFFFFF) ∧
      (~~~(maskRom k) = maskRom k >>> blockSize k ∧
        maskRom k = ~~~(maskRom k) <<< blockSize k) ∧
      (∀ x : Word,
        (x >>> blockSize k) &&& ~~~(maskRom k) = (x &&& maskRom k) >>> blockSize k ∧
          (x <<< blockSize k) &&& maskRom k = (x &&& ~~~(maskRom k)) <<< blockSize k) ∧
      ∀ c : Nat, c < 32 → ((maskRom k).getLsbD c = true ↔ c.testBit (blockLog2 k) = true)

/-- 10_state R23 and R24: the index arrays equal their closed forms entry by entry, and each of the six
pairs names each of the 32 positions exactly once. -/
def Obligations.IndexArraysEqualTheirClosedForms : Prop :=
  (∀ (k : BlockSize) (l : Fin 16),
      ((swzP0 k)[l].toNat =
        if k = .k16 then l.val
        else 16 * (l.val / blockSize k % 2) + withBit l.val (blockLog2 k) false) ∧
      ((swzP1 k)[l].toNat =
        if k = .k16 then 16 + l.val
        else 16 * (l.val / blockSize k % 2) + withBit l.val (blockLog2 k) true)) ∧
    (∀ l : Fin 16, ilvP0[l].toNat = 16 * (l.val % 2) + l.val / 2 ∧
      ilvP1[l].toNat = 16 * (l.val % 2) + 8 + l.val / 2) ∧
    (∀ k : BlockSize, indexPairWf (swzP0 k) (swzP1 k) = true) ∧
    indexPairWf ilvP0 ilvP1 = true

/-- 41_swizzle R66 and R67: composing the index arrays from the `LOAD` map gives `ROW_k` after every
stage and ascending order after the interleave, and every stage meets the pairing requirement. -/
def Obligations.IndexArraysMeetThePairingRequirement : Prop :=
  (∀ (k : BlockSize) (d : Fin 2) (l : Fin 16),
      rowMapBefore k (if idxVector (if d = 0 then (swzP0 k)[l] else (swzP1 k)[l]) then 1 else 0)
        (idxLane (if d = 0 then (swzP0 k)[l] else (swzP1 k)[l])).val = rowMap k d.val l.val) ∧
    (∀ (d : Fin 2) (l : Fin 16),
      rowMap .k1 (if idxVector (if d = 0 then ilvP0[l] else ilvP1[l]) then 1 else 0)
        (idxLane (if d = 0 then ilvP0[l] else ilvP1[l])).val = effectiveRow d l) ∧
    (∀ (k : BlockSize) (l : Fin 16), rowMap k 1 l.val = rowMap k 0 l.val + blockSize k ∧
      (rowMap k 0 l.val).testBit (blockLog2 k) = false) ∧
    familyFits romFamily (ilvP0, ilvP1) = true

/-! ### The micro-operations: what each does, what it leaves, and that it always completes -/

/-- 40_load_store R61. `LOAD` always completes: `V0[l]` is row `l`, `V1[l]` is row `16 + l`, position
`p` holds row `p`, and nothing else changes; its word is 0x20, at step 0. -/
def Obligations.LoadCopiesTheRowsIntoTheVectors : Prop :=
  (encode .load = 0x20 ∧ seqRom[0]? = some 0x20) ∧
    ∀ s : State, ∃ t, exec .load s = .next t ∧
      (∀ l : Fin 16, memRead s.mat l.val = some t.v0[l] ∧
        memRead s.mat (16 + l.val) = some t.v1[l]) ∧
      (∀ p : Idx5, memRead s.mat p.toNat = some (t.cat p)) ∧
      t = { s with v0 := t.v0, v1 := t.v1 } ∧
      ∀ a : Nat, memRead t.mat a = memRead s.mat a

/-- 40_load_store R62. `STORE` always completes: row `16*d + l` (`effectiveRow d l`) becomes lane `l` of
`P0` (`d = 0`) or `P1` (`d = 1`), every other address reads as before, and nothing but the matrix
buffer changes; its word is 0xA0, at step 12, and run there it completes the run. -/
def Obligations.StoreWritesEveryRowFromTheVectors : Prop :=
  (encode .store = 0xA0 ∧ seqRom[12]? = some 0xA0) ∧
    (∀ s : State, ∃ t, exec .store s = .next t ∧
      (∀ l : Fin 16, memRead t.mat (effectiveRow 0 l) = some s.p0[l] ∧
        memRead t.mat (effectiveRow 1 l) = some s.p1[l]) ∧
      (∀ a : Nat, (∀ d l, a ≠ effectiveRow d l) → memRead t.mat a = memRead s.mat a) ∧
      t = { s with mat := t.mat }) ∧
    ∀ s t : State, s.script = [] → s.busy = true → s.step = 12 → exec .store s = .next t →
      step s = .next { t with busy := false, done := true, step := 0 }

/-- 41_swizzle R68. `SWZ16` always completes: the identity copy, `V0`, `V1` and all else unchanged. -/
def Obligations.Swz16CopiesLaneForLane : Prop :=
  (encode .swz16 = 0x50 ∧ seqRom[1]? = some 0x50) ∧
    ∀ s : State, ∃ t, exec .swz16 s = .next t ∧
      (∀ l : Fin 16, t.p0[l] = s.v0[l] ∧ t.p1[l] = s.v1[l]) ∧
      t = { s with p0 := t.p0, p1 := t.p1 } ∧
      (∀ a : Nat, memRead t.mat a = memRead s.mat a) ∧
      ∀ row : Rows,
        (∀ l : Fin 16, s.v0[l] = row l.val ∧ s.v1[l] = row (16 + l.val)) →
          ∀ l : Fin 16, t.p0[l] = row l.val ∧ t.p1[l] = row (16 + l.val)

/-- 41_swizzle R69. `SWZ8` always completes with the loop of the rule; from the row map after `MRG16`
it leaves, lane for lane, the rows 8 apart. -/
def Obligations.Swz8ExchangesBlocksOfEightLanes : Prop :=
  (encode .swz8 = 0x48 ∧ seqRom[3]? = some 0x48) ∧
    ∀ s : State, ∃ t, exec .swz8 s = .next t ∧
      (∀ (l : Nat) (h : l < 8), t.p0[l] = s.v0[l] ∧ t.p0[l + 8] = s.v1[l] ∧
        t.p1[l] = s.v0[l + 8] ∧ t.p1[l + 8] = s.v1[l + 8]) ∧
      t = { s with p0 := t.p0, p1 := t.p1 } ∧
      (∀ a : Nat, memRead t.mat a = memRead s.mat a) ∧
      ∀ row : Rows,
        (∀ l : Fin 16, s.v0[l] = row (rowMapBefore .k8 0 l.val) ∧
          s.v1[l] = row (rowMapBefore .k8 1 l.val)) →
        ∀ l : Fin 16, t.p0[l] = row (rowMap .k8 0 l.val) ∧
          t.p1[l] = row (rowMap .k8 0 l.val + 8)

/-- 41_swizzle R70. `SWZ4` always completes with the loop of the rule; from the row map after `MRG8` it
leaves, lane for lane, the rows 4 apart. -/
def Obligations.Swz4ExchangesBlocksOfFourLanes : Prop :=
  (encode .swz4 = 0x44 ∧ seqRom[5]? = some 0x44) ∧
    ∀ s : State, ∃ t, exec .swz4 s = .next t ∧
      (∀ (h : Nat) (j : Nat) (hh : h < 2) (hj : j < 4),
        t.p0[8 * h + j] = s.v0[8 * h + j] ∧ t.p0[8 * h + 4 + j] = s.v1[8 * h + j] ∧
        t.p1[8 * h + j] = s.v0[8 * h + 4 + j] ∧ t.p1[8 * h + 4 + j] = s.v1[8 * h + 4 + j]) ∧
      t = { s with p0 := t.p0, p1 := t.p1 } ∧
      (∀ a : Nat, memRead t.mat a = memRead s.mat a) ∧
      ∀ row : Rows,
        (∀ l : Fin 16, s.v0[l] = row (rowMapBefore .k4 0 l.val) ∧
          s.v1[l] = row (rowMapBefore .k4 1 l.val)) →
        ∀ l : Fin 16, t.p0[l] = row (rowMap .k4 0 l.val) ∧
          t.p1[l] = row (rowMap .k4 0 l.val + 4)

/-- 41_swizzle R71. `SWZ2` always completes with the loop of the rule; from the row map after `MRG4` it
leaves, lane for lane, the rows 2 apart. -/
def Obligations.Swz2ExchangesPairsOfLanes : Prop :=
  (encode .swz2 = 0x42 ∧ seqRom[7]? = some 0x42) ∧
    ∀ s : State, ∃ t, exec .swz2 s = .next t ∧
      (∀ (h : Nat) (j : Nat) (hh : h < 4) (hj : j < 2),
        t.p0[4 * h + j] = s.v0[4 * h + j] ∧ t.p0[4 * h + 2 + j] = s.v1[4 * h + j] ∧
        t.p1[4 * h + j] = s.v0[4 * h + 2 + j] ∧ t.p1[4 * h + 2 + j] = s.v1[4 * h + 2 + j]) ∧
      t = { s with p0 := t.p0, p1 := t.p1 } ∧
      (∀ a : Nat, memRead t.mat a = memRead s.mat a) ∧
      ∀ row : Rows,
        (∀ l : Fin 16, s.v0[l] = row (rowMapBefore .k2 0 l.val) ∧
          s.v1[l] = row (rowMapBefore .k2 1 l.val)) →
        ∀ l : Fin 16, t.p0[l] = row (rowMap .k2 0 l.val) ∧
          t.p1[l] = row (rowMap .k2 0 l.val + 2)

/-- 41_swizzle R72. `SWZ1` always completes with the loop of the rule; from the row map after `MRG2` it
leaves the even rows in `P0` and the odd rows in `P1`, both ascending. -/
def Obligations.Swz1InterleavesEvenAndOddLanes : Prop :=
  (encode .swz1 = 0x41 ∧ seqRom[9]? = some 0x41) ∧
    ∀ s : State, ∃ t, exec .swz1 s = .next t ∧
      (∀ (j : Nat) (hj : j < 8),
        t.p0[2 * j] = s.v0[2 * j] ∧ t.p0[2 * j + 1] = s.v1[2 * j] ∧
        t.p1[2 * j] = s.v0[2 * j + 1] ∧ t.p1[2 * j + 1] = s.v1[2 * j + 1]) ∧
      t = { s with p0 := t.p0, p1 := t.p1 } ∧
      (∀ a : Nat, memRead t.mat a = memRead s.mat a) ∧
      ∀ row : Rows,
        (∀ l : Fin 16, s.v0[l] = row (rowMapBefore .k1 0 l.val) ∧
          s.v1[l] = row (rowMapBefore .k1 1 l.val)) →
        ∀ l : Fin 16, t.p0[l] = row (2 * l.val) ∧ t.p1[l] = row (2 * l.val + 1)

/-- 41_swizzle R73. `ILV` always completes with the loop of the rule; from even rows in `V0` and odd
rows in `V1` it leaves ascending order. -/
def Obligations.IlvRestoresAscendingOrder : Prop :=
  (encode .ilv = 0x80 ∧ seqRom[11]? = some 0x80) ∧
    ∀ s : State, ∃ t, exec .ilv s = .next t ∧
      (∀ (j : Nat) (hj : j < 8),
        t.p0[2 * j] = s.v0[j] ∧ t.p0[2 * j + 1] = s.v1[j] ∧
        t.p1[2 * j] = s.v0[8 + j] ∧ t.p1[2 * j + 1] = s.v1[8 + j]) ∧
      t = { s with p0 := t.p0, p1 := t.p1 } ∧
      (∀ a : Nat, memRead t.mat a = memRead s.mat a) ∧
      ∀ row : Rows,
        (∀ l : Fin 16, s.v0[l] = row (2 * l.val) ∧ s.v1[l] = row (2 * l.val + 1)) →
          ∀ l : Fin 16, t.p0[l] = row l.val ∧ t.p1[l] = row (16 + l.val)

/-- 42_merge R78. `MRG16` always completes with the literals of the rule and changes nothing else; each
result is a halfword of `P1` over a halfword of `P0`, and on rows 16 apart it does the scalar stage. -/
def Obligations.Mrg16ExchangesHalfwords : Prop :=
  (encode .mrg16 = 0x70 ∧ seqRom[2]? = some 0x70) ∧
    ∀ s : State, ∃ t, exec .mrg16 s = .next t ∧
      (∀ l : Fin 16,
        t.v1[l] = (s.p1[l] &&& 0xFFFF0000) ||| ((s.p0[l] >>> 16) &&& 0x0000FFFF) ∧
        t.v0[l] = (s.p0[l] &&& 0x0000FFFF) ||| ((s.p1[l] <<< 16) &&& 0xFFFF0000) ∧
        t.v1[l] = s.p1[l].extractLsb' 16 16 ++ s.p0[l].extractLsb' 16 16 ∧
        t.v0[l] = s.p1[l].extractLsb' 0 16 ++ s.p0[l].extractLsb' 0 16) ∧
      t = { s with v0 := t.v0, v1 := t.v1 } ∧
      (∀ a : Nat, memRead t.mat a = memRead s.mat a) ∧
      ∀ row : Rows,
        (∀ l : Fin 16, s.p0[l] = row l.val ∧ s.p1[l] = row (16 + l.val)) →
          ∀ l : Fin 16, t.v0[l] = scalarStage .k16 row l.val ∧
            t.v1[l] = scalarStage .k16 row (16 + l.val)

/-- 42_merge R79. `MRG8` always completes with the literals of the rule and changes nothing else; on
rows 8 apart it does the scalar stage. -/
def Obligations.Mrg8ExchangesBytes : Prop :=
  (encode .mrg8 = 0x68 ∧ seqRom[4]? = some 0x68) ∧
    ∀ s : State, ∃ t, exec .mrg8 s = .next t ∧
      (∀ l : Fin 16,
        t.v1[l] = (s.p1[l] &&& 0xFF00FF00) ||| ((s.p0[l] >>> 8) &&& 0x00FF00FF) ∧
        t.v0[l] = (s.p0[l] &&& 0x00FF00FF) ||| ((s.p1[l] <<< 8) &&& 0xFF00FF00)) ∧
      t = { s with v0 := t.v0, v1 := t.v1 } ∧
      (∀ a : Nat, memRead t.mat a = memRead s.mat a) ∧
      ∀ row : Rows,
        (∀ l : Fin 16, s.p0[l] = row (rowMap .k8 0 l.val) ∧
          s.p1[l] = row (rowMap .k8 0 l.val + 8)) →
        ∀ l : Fin 16, t.v0[l] = scalarStage .k8 row (rowMap .k8 0 l.val) ∧
          t.v1[l] = scalarStage .k8 row (rowMap .k8 0 l.val + 8)

/-- 42_merge R80. `MRG4` always completes with the literals of the rule and changes nothing else; on
rows 4 apart it does the scalar stage. -/
def Obligations.Mrg4ExchangesNibbles : Prop :=
  (encode .mrg4 = 0x64 ∧ seqRom[6]? = some 0x64) ∧
    ∀ s : State, ∃ t, exec .mrg4 s = .next t ∧
      (∀ l : Fin 16,
        t.v1[l] = (s.p1[l] &&& 0xF0F0F0F0) ||| ((s.p0[l] >>> 4) &&& 0x0F0F0F0F) ∧
        t.v0[l] = (s.p0[l] &&& 0x0F0F0F0F) ||| ((s.p1[l] <<< 4) &&& 0xF0F0F0F0)) ∧
      t = { s with v0 := t.v0, v1 := t.v1 } ∧
      (∀ a : Nat, memRead t.mat a = memRead s.mat a) ∧
      ∀ row : Rows,
        (∀ l : Fin 16, s.p0[l] = row (rowMap .k4 0 l.val) ∧
          s.p1[l] = row (rowMap .k4 0 l.val + 4)) →
        ∀ l : Fin 16, t.v0[l] = scalarStage .k4 row (rowMap .k4 0 l.val) ∧
          t.v1[l] = scalarStage .k4 row (rowMap .k4 0 l.val + 4)

/-- 42_merge R81. `MRG2` always completes with the literals of the rule and changes nothing else; on
rows 2 apart it does the scalar stage. -/
def Obligations.Mrg2ExchangesBitPairs : Prop :=
  (encode .mrg2 = 0x62 ∧ seqRom[8]? = some 0x62) ∧
    ∀ s : State, ∃ t, exec .mrg2 s = .next t ∧
      (∀ l : Fin 16,
        t.v1[l] = (s.p1[l] &&& 0xCCCCCCCC) ||| ((s.p0[l] >>> 2) &&& 0x33333333) ∧
        t.v0[l] = (s.p0[l] &&& 0x33333333) ||| ((s.p1[l] <<< 2) &&& 0xCCCCCCCC)) ∧
      t = { s with v0 := t.v0, v1 := t.v1 } ∧
      (∀ a : Nat, memRead t.mat a = memRead s.mat a) ∧
      ∀ row : Rows,
        (∀ l : Fin 16, s.p0[l] = row (rowMap .k2 0 l.val) ∧
          s.p1[l] = row (rowMap .k2 0 l.val + 2)) →
        ∀ l : Fin 16, t.v0[l] = scalarStage .k2 row (rowMap .k2 0 l.val) ∧
          t.v1[l] = scalarStage .k2 row (rowMap .k2 0 l.val + 2)

/-- 42_merge section 3 (its rule R82 but for the sentence on the transpose, which
`RegistersFollowTheScalarAlgorithm` states). `MRG1` always completes with the literals of the rule and
changes nothing else; on rows `2l` and `2l + 1` it does the scalar stage. -/
def Obligations.Mrg1ExchangesSingleBits : Prop :=
  (encode .mrg1 = 0x61 ∧ seqRom[10]? = some 0x61) ∧
    ∀ s : State, ∃ t, exec .mrg1 s = .next t ∧
      (∀ l : Fin 16,
        t.v1[l] = (s.p1[l] &&& 0xAAAAAAAA) ||| ((s.p0[l] >>> 1) &&& 0x55555555) ∧
        t.v0[l] = (s.p0[l] &&& 0x55555555) ||| ((s.p1[l] <<< 1) &&& 0xAAAAAAAA)) ∧
      t = { s with v0 := t.v0, v1 := t.v1 } ∧
      (∀ a : Nat, memRead t.mat a = memRead s.mat a) ∧
      ∀ row : Rows,
        (∀ l : Fin 16, s.p0[l] = row (2 * l.val) ∧ s.p1[l] = row (2 * l.val + 1)) →
          ∀ l : Fin 16, t.v0[l] = scalarStage .k1 row (2 * l.val) ∧
            t.v1[l] = scalarStage .k1 row (2 * l.val + 1)

/-! ### The families -/

/-- 41_swizzle R64. Each of the six permutations copies, into each destination lane, the position its
index entry names, leaves `V0` and `V1` (and all but `P0`, `P1`) as they were, and neither loses nor
duplicates a word. -/
def Obligations.PermutationsKeepEveryWord : Prop :=
  ∀ (i : Instr) (a0 a1 : IndexArray),
    ((∃ k, i = swzOf k ∧ a0 = swzP0 k ∧ a1 = swzP1 k) ∨ (i = .ilv ∧ a0 = ilvP0 ∧ a1 = ilvP1)) →
    indexPairWf a0 a1 = true ∧
      ∀ s : State, ∃ t, exec i s = .next t ∧
        (∀ l : Fin 16, t.p0[l] = s.cat a0[l] ∧ t.p1[l] = s.cat a1[l]) ∧
        t = { s with p0 := t.p0, p1 := t.p1 } ∧
        (t.p0.toList ++ t.p1.toList).Perm (s.v0.toList ++ s.v1.toList)

/-- 42_merge R76. `MRGk` always completes; every lane of the result is the rule's expression of the same
lane of `P0` and `P1`, and bit by bit it is a bit of one of the two. -/
def Obligations.MergeIsTheScalarBlockSwapPerLane : Prop :=
  ∀ (k : BlockSize) (s : State), ∃ t, exec (mrgOf k) s = .next t ∧
    t = { s with v0 := t.v0, v1 := t.v1 } ∧
    ∀ l : Fin 16,
      (t.v1[l] = (s.p1[l] &&& maskRom k) ||| ((s.p0[l] >>> blockSize k) &&& ~~~(maskRom k)) ∧
        t.v0[l] = (s.p0[l] &&& ~~~(maskRom k)) ||| ((s.p1[l] <<< blockSize k) &&& maskRom k)) ∧
      ∀ c : Nat, c < 32 →
        if c.testBit (blockLog2 k) then
          t.v1[l].getLsbD c = s.p1[l].getLsbD c ∧
            t.v0[l].getLsbD c = s.p1[l].getLsbD (c - blockSize k)
        else
          t.v1[l].getLsbD c = s.p0[l].getLsbD (c + blockSize k) ∧
            t.v0[l].getLsbD c = s.p0[l].getLsbD c

/-- 42_merge R77. The equivalent forms of the merge: (a) the source-side form, (b) the exclusive-or
form, (c) the merge is its own inverse, (d) it moves bits by a fixed bijection and is linear over
XOR. -/
def Obligations.MergeEquivalentForms : Prop :=
  ∀ k : BlockSize,
    (∀ a b : Word,
      (mergeHi k a b = (b &&& maskRom k) ||| ((a &&& maskRom k) >>> blockSize k) ∧
        mergeLo k a b = (a &&& ~~~(maskRom k)) ||| ((b &&& ~~~(maskRom k)) <<< blockSize k)) ∧
      (mergeHi k a b = b ^^^ (((a >>> blockSize k) ^^^ b) &&& ~~~(maskRom k)) ∧
        mergeLo k a b =
          a ^^^ ((((a >>> blockSize k) ^^^ b) &&& ~~~(maskRom k)) <<< blockSize k)) ∧
      (mergeLo k (mergeLo k a b) (mergeHi k a b) = a ∧
        mergeHi k (mergeLo k a b) (mergeHi k a b) = b)) ∧
    (∃ source : Equiv.Perm (Bool × Fin 32), ∀ (a b : Word) (hi : Bool) (c : Fin 32),
      (if hi then mergeHi k a b else mergeLo k a b).getLsbD c.val =
        (if (source (hi, c)).1 then b else a).getLsbD (source (hi, c)).2.val) ∧
    ∀ a b a' b' : Word,
      mergeHi k (a ^^^ a') (b ^^^ b') = mergeHi k a b ^^^ mergeHi k a' b' ∧
        mergeLo k (a ^^^ a') (b ^^^ b') = mergeLo k a b ^^^ mergeLo k a' b'

/-- 41_swizzle R65. Processing the lanes one after another, in any order that names each lane, gives
what the single transition gives, for every kind of micro-operation. (For `STORE` the matrix buffer is
in canonical form, an invariant of the model: `EveryStepKeepsTheStateLegal`.) -/
def Obligations.LaneOrderIsNotObservable : Prop :=
  ∀ (order : List (Fin 16)) (s : State), (∀ l, l ∈ order) →
    order.foldl loadLane s = loadVectors s ∧
      (∀ a0 a1, order.foldl (permuteLane a0 a1) s = permute a0 a1 s) ∧
      (∀ k, order.foldl (mergeLane k) s = merge k s) ∧
      (s.mat.wf = true → order.foldl storeLane s = storeVectors s)

/-- 40_load_store and 95 LS6. `LOAD`, then `STORE` with `V0`, `V1` copied into `P0`, `P1`, leaves every
row as it was. -/
def Obligations.LoadThenStoreKeepsEveryRow : Prop :=
  ∀ s : State, ∃ t u, exec .load s = .next t ∧ exec .store (t.withP t.v0 t.v1) = .next u ∧
    ∀ a : Nat, memRead u.mat a = memRead s.mat a

/-! ### The matrix space and the host interface -/

/-- 20_memory R30. `MemRead` and `MemWrite` are defined exactly for the row indices 0..31; a row read
after it was written gives the word written, and every other row reads as before. (In canonical form,
an invariant of the model: `EveryStepKeepsTheStateLegal`.) -/
def Obligations.RowReadAfterWrite : Prop :=
  ∀ (m : Memory) (i : Nat) (w : Word), m.wf = true →
    (i < 32 → ∃ m', memWrite m i w = some m' ∧ m'.wf = true ∧ memRead m' i = some w ∧
      ∀ j, j ≠ i → memRead m' j = memRead m j) ∧
    (32 ≤ i → memRead m i = none ∧ memWrite m i w = none)

/-- 20_memory R42, rows 1 and 2 of its table. The host's next move is a row access: idle and in range
it succeeds, a write changing that row only and a read handing back the row; while busy it is refused,
and so is a row index above 31. (How a refusal and a value handed back look is the model's choice: logs
9, 17, 18.) -/
def Obligations.HostRowAccessWhenIdle : Prop :=
  ∀ (s : State) (i : Nat) (w : Word) (rest : List Tick), s.mat.wf = true →
    (s.script = { reset := false, move := .writeRow i w } :: rest →
      (s.busy = true → step s = .refused .rowWriteWhileBusy) ∧
      (s.busy = false → 32 ≤ i → step s = .refused (.noSuchRow i)) ∧
      (s.busy = false → i < 32 → ∃ t, step s = .next t ∧ memRead t.mat i = some w ∧
        (∀ j, j ≠ i → memRead t.mat j = memRead s.mat j) ∧
        t = { s with mat := t.mat, script := rest })) ∧
    (s.script = { reset := false, move := .readRow i } :: rest →
      (s.busy = true → step s = .refused .rowReadWhileBusy) ∧
      (s.busy = false → 32 ≤ i → step s = .refused (.noSuchRow i)) ∧
      (s.busy = false → i < 32 → ∃ v, memRead s.mat i = some v ∧
        step s = .next { s with answer := some (.row v), script := rest }))

/-- 20_memory R42, row 3 of its table. Reading `busy` or `done` is always allowed, hands back the bit
and changes nothing else. (That the value stands in `answer` is the model's choice: log 17.) -/
def Obligations.StatusReadsAreAlwaysAllowed : Prop :=
  ∀ (s : State) (rest : List Tick),
    (s.script = { reset := false, move := .readBusy } :: rest →
      step s = .next { s with answer := some (.bit s.busy), script := rest }) ∧
    (s.script = { reset := false, move := .readDone } :: rest →
      step s = .next { s with answer := some (.bit s.done), script := rest })

/-- 10_state R18. Start, when `busy = 0`: `busy <- 1`, `done <- 0`, `step <- 0` and nothing else; when
`busy = 1` it is refused. -/
def Obligations.StartCommandNeedsAnIdleEngine : Prop :=
  ∀ (s : State) (rest : List Tick), s.script = { reset := false, move := .start } :: rest →
    (s.busy = false →
      step s = .next { s with busy := true, done := false, step := 0, script := rest }) ∧
    (s.busy = true → step s = .refused .startWhileBusy)

/-- 10_state R17. While busy, and with the host silent, a step executes the micro-operation whose word
`SEQ_ROM` holds at `step`, then goes to `step + 1`, or after step 12 to `step = 0`, `busy = 0`,
`done = 1`; idle, nothing changes. (That a silent host is an empty script or a silent tick, and that an
idle engine's step answers the same state, is the model's choice: logs 6, 7, 13.) -/
def Obligations.StepRunsTheDecodedInstruction : Prop :=
  (∀ s : State, s.script = [] ∨ s.script = [silentTick] → s.busy = false →
      step s = .next { s with script := [] }) ∧
    (∀ (s t : State) (cw : ControlWord) (i : Instr), s.script = [] → s.busy = true →
      seqRom[s.step.toNat]? = some cw → decode cw = .instr i → exec i s = .next t →
      step s = .next (if s.step = 12 then { t with busy := false, done := true, step := 0 }
        else { t with step := s.step + 1 })) ∧
    ∀ s : State, s.script = [] → s.busy = true → s.step.toNat ≤ 12 →
      ∃ cw i t u, seqRom[s.step.toNat]? = some cw ∧ decode cw = .instr i ∧ exec i s = .next t ∧
        step s = .next u ∧
        ((s.step = 12 ∧ u.step = 0) ∨ (s.step ≠ 12 ∧ u.step.toNat = s.step.toNat + 1))

/-- The two forms nothing can reach: a busy engine with `step` 13, 14 or 15 (93 U12), and a reserved
control word (93 U3, 30_encoding section 4). Each is refused by its own name. (The names are the model's
choice: log 10.) -/
def Obligations.UnreachableFormsAreRefused : Prop :=
  (∀ s : State, s.script = [] → s.busy = true → 13 ≤ s.step.toNat →
      step s = .refused (.noSuchStep s.step.toNat)) ∧
    ∀ (cw : ControlWord) (s : State), (fieldsOf cw).wf = false →
      runWord cw s = .refused (.reservedWord cw)

/-- A state prepared to run one control word next runs exactly that micro-operation, whatever the state
was, and then advances (10_state section 3). (What `withFetchWord` prepares is the model's choice:
log 12.) -/
def Obligations.FetchWordRunsItsInstruction : Prop :=
  ∀ (i : Instr) (s : State), ∃ t, exec i (s.withFetchWord 8 (encode i).toNat) = .next t ∧
    step (s.withFetchWord 8 (encode i).toNat) =
      .next (if i = .store then { t with busy := false, done := true, step := 0 }
        else { t with step := t.step + 1 })

/-- 70_reset section 1. A tick with reset asserted always succeeds, whatever else the host does in it and
whatever the engine would have done: the sequencer is at its reset values, and the matrix buffer and the
host's last answer are unchanged. (The spec says so of a start and of a step; that every other move is
lost too, and that the answer stays, is the model's choice: logs 8, 17.) Nothing is said of the
vector registers, which are unspecified (R114). -/
def Obligations.ResetWinsOverEverything : Prop :=
  ∀ (s : State) (m : HostMove) (rest : List Tick), s.script = { reset := true, move := m } :: rest →
    ∃ t, step s = .next t ∧ t.busy = false ∧ t.done = false ∧ t.step = 0 ∧ t.mat = s.mat ∧
      t.answer = s.answer ∧ t.script = rest

/-- 10_state R28, the values it gives: after reset `busy = 0`, `done = 0`, `step = 0`. -/
def Obligations.ResetLeavesTheSequencerIdle : Prop :=
  State.reset.busy = false ∧ State.reset.done = false ∧ State.reset.step = 0

/-! ### Whole-machine rules -/

/-- The state after reset is legal (10_state R16, R28). -/
def Obligations.ResetStateIsLegal : Prop := State.reset.legal = true

/-- The invariant: every step from a legal state gives a legal state. `step` stays one of 0..12 and 0
when idle, `done` is never set while busy (10_state R16, R17; 93 U12, U13), the matrix buffer stays
canonical. -/
def Obligations.EveryStepKeepsTheStateLegal : Prop :=
  ∀ s t : State, s.legal = true → step s = .next t → t.legal = true

/-- From a legal state a step goes on exactly where the host keeps to 20_memory R42: nothing inside the
engine can stop it (60_exceptions R100, 43_transpose R90). -/
def Obligations.OnlyHostMisuseStopsTheMachine : Prop :=
  ∀ s : State, s.legal = true → (goesOn (step s) ↔ s.hostKeepsRules = true)

/-- A row of `MAT` changes only by `STORE`, as step 12 of a busy engine that the host lets step, or by
the host's own write of that row while idle (10_state R14, 20_memory R36, R42). -/
def Obligations.RowsChangeOnlyByStoreOrHostWrite : Prop :=
  ∀ (s t : State) (i : Nat), step s = .next t → memRead t.mat i ≠ memRead s.mat i →
    (s.busy = true ∧ s.step = 12 ∧
        (s.script = [] ∨ ∃ rest, s.script = silentTick :: rest)) ∨
      (s.busy = false ∧
        ∃ w rest, s.script = { reset := false, move := .writeRow i w } :: rest)

/-- Control does not depend on data (70_reset R124, 20_memory R43): two states that agree on the
sequencer and on the host's moves go on together and agree on them afterwards, whatever the matrix and
the vector registers hold. -/
def Obligations.ControlDoesNotDependOnData : Prop :=
  ∀ s s' : State, s.busy = s'.busy → s.done = s'.done → s.step = s'.step → s.script = s'.script →
    (goesOn (step s) ↔ goesOn (step s')) ∧
      ∀ t t', step s = .next t → step s' = .next t' →
        t.busy = t'.busy ∧ t.done = t'.done ∧ t.step = t'.step ∧ t.script = t'.script

/-- 60_exceptions section 6. The engines of a platform do not interfere: a step of one is its own step and
leaves every other as it was, and no interleaving changes any result: schedules that name each engine
equally often end in the same engines. (The list of engines and the schedule are the model's form:
log 16. That an engine's vector registers agree between two schedules even after a reset input, and not
only what its host can see, is the model's choice of one stream of free values: log 24.) -/
def Obligations.EnginesDoNotInterfere : Prop :=
  (∀ (es : Engines) (n : Nat) (s t : State), es[n]? = some s → step s = .next t →
      ∃ es', stepEngine n es = .next es' ∧ es'.length = es.length ∧ es'[n]? = some t ∧
        ∀ k, k ≠ n → es'[k]? = es[k]?) ∧
    ∀ (order order' : List Nat) (es es' : Engines), order.Perm order' →
      runEngines order es = .next es' → runEngines order' es = .next es'

/-! ### The scalar algorithm -/

/-- 43_transpose R91. A scalar stage exchanges bit `b` of the row number with bit `b` of the column
number; after the stages 16 down to `k` the bits `b` and above are exchanged, and after stage 1 the
matrix is transposed. -/
def Obligations.ScalarStageExchangesOneIndexBit : Prop :=
  (∀ (k : BlockSize) (a : Rows) (r c : Nat), r < 32 → c < 32 →
      (scalarStage k a r).getLsbD c =
        (a (withBit r (blockLog2 k) (c.testBit (blockLog2 k)))).getLsbD
          (withBit c (blockLog2 k) (r.testBit (blockLog2 k)))) ∧
    (∀ (k : BlockSize) (m : Rows) (r c : Nat), r < 32 → c < 32 →
      (scalarAfter m k r).getLsbD c =
        (m (c / blockSize k * blockSize k + r % blockSize k)).getLsbD
          (r / blockSize k * blockSize k + c % blockSize k)) ∧
    ∀ (m : Rows) (r c : Nat), r < 32 → c < 32 →
      (scalarAfter m .k1 r).getLsbD c = (m c).getLsbD r

/-- 43_transpose R99, its mathematics: the scalar stages commute, and in any order they transpose. -/
def Obligations.ScalarStagesCommute : Prop :=
  (∀ (j k : BlockSize) (a : Rows) (r : Nat), r < 32 →
      scalarStage j (scalarStage k a) r = scalarStage k (scalarStage j a) r) ∧
    ∀ (order : List BlockSize) (a : Rows) (r : Nat), order.Perm stageOrder → r < 32 →
      order.foldl (fun x k => scalarStage k x) a r = transposedRow a r

/-- 43_transpose R87. `STAGE k` applies the scalar stage to the matrix the working vectors hold and
moves each logical row to the lane `ROW_k` gives. -/
def Obligations.StageAppliesTheScalarStage : Prop :=
  ∀ (k : BlockSize) (a : Rows) (s : State),
    (∀ l : Fin 16, s.v0[l] = a (rowMapBefore k 0 l.val) ∧ s.v1[l] = a (rowMapBefore k 1 l.val)) →
    ∃ t u, exec (swzOf k) s = .next t ∧ exec (mrgOf k) t = .next u ∧
      ∀ l : Fin 16, u.v0[l] = scalarStage k a (rowMap k 0 l.val) ∧
        u.v1[l] = scalarStage k a (rowMap k 1 l.val)

/-! ### The whole operation -/

/-- 43_transpose R90 and 70_reset R125. From an idle engine and a start, with the host silent, the run
takes exactly 13 steps whatever the data: `step` counts 0 to 12 with `busy = 1` and `done = 0`, then
the engine is idle with `done = 1` and stays so. -/
def Obligations.EveryRunTakesThirteenSteps : Prop :=
  ∀ s : State, s.busy = false → s.script = startOnly →
    (∀ n : Nat, n ≤ 12 → ∃ t, run (n + 1) s = .next t ∧ t.busy = true ∧ t.done = false ∧
      t.step = BitVec.ofNat 4 n ∧ t.script = []) ∧
    ∀ n : Nat, 14 ≤ n → ∃ t, run n s = .next t ∧ t.busy = false ∧ t.done = true ∧ t.step = 0 ∧
      run n s = run 14 s

/-- 42_merge R83. In the fixed sequence the registers hold the scalar algorithm's rows at the lanes
`ROW_k` gives: `A_2k` after `SWZk`, `A_k` after `MRGk`, `A_1` in ascending order after `ILV` and in the
matrix buffer after `STORE`. (Run 1 is the start, run 2 `LOAD`, then two for each stage.) -/
def Obligations.RegistersFollowTheScalarAlgorithm : Prop :=
  ∀ s : State, s.busy = false → s.script = startOnly →
    (∀ (j : Nat) (k : BlockSize), stageOrder[j]? = some k →
      (∃ t, run (3 + 2 * j) s = .next t ∧ ∀ l : Fin 16,
        t.p0[l] = scalarBefore s.mat.lookup k (rowMap k 0 l.val) ∧
        t.p1[l] = scalarBefore s.mat.lookup k (rowMap k 1 l.val)) ∧
      ∃ t, run (4 + 2 * j) s = .next t ∧ ∀ l : Fin 16,
        t.v0[l] = scalarAfter s.mat.lookup k (rowMap k 0 l.val) ∧
        t.v1[l] = scalarAfter s.mat.lookup k (rowMap k 1 l.val)) ∧
    (∃ t, run 13 s = .next t ∧ ∀ l : Fin 16,
      t.p0[l] = scalarAfter s.mat.lookup .k1 l.val ∧
      t.p1[l] = scalarAfter s.mat.lookup .k1 (16 + l.val)) ∧
    ∃ t, run 14 s = .next t ∧ ∀ i, i < 32 →
      t.mat.lookup i = scalarAfter s.mat.lookup .k1 i

/-- 43_transpose R85, the contract. Let `M` be the matrix buffer when start is issued and `M'` when the
engine next has `busy = 0`: bit `j` of row `i` of `M'` is bit `i` of row `j` of `M`; as whole words,
row `i` of `M'` is the OR of `M[j].bit(i) << j`. -/
def Obligations.TransposeMeetsTheContract : Prop :=
  ∀ s : State, s.busy = false → s.script = startOnly →
    (∀ n, 1 ≤ n → n < 14 → ∃ u, run n s = .next u ∧ u.busy = true) ∧
      ∃ t, run 14 s = .next t ∧ t.busy = false ∧
        (∀ i j, i < 32 → j < 32 →
          (t.mat.lookup i).getLsbD j = (s.mat.lookup j).getLsbD i) ∧
        ∀ i, i < 32 → memRead t.mat i = some (transposedRow s.mat.lookup i)

/-- 43_transpose section 1 (its whole-operation view), for a host that waits. For a host that keeps the
rules, the stepwise engine and the engine that
transposes in one transition cannot be told apart: after any list of requests (each `transpose` request
waits for its completion) the rows, `busy`, `done` and the last value handed back are the same. -/
def Obligations.StepwiseEngineEqualsOneTransitionEngine : Prop :=
  ∀ (calls : List HostCall) (s : State), s.legal = true → s.busy = false →
    s.script = calls.flatMap HostCall.ticks →
    ∃ t, run (calls.flatMap HostCall.ticks).length s = .next t ∧ t.script = [] ∧
      t.step = 0 ∧
      t.hostView = (calls.foldl (fun u c => c.atOnce u) s).hostView ∧
      t.answer = (calls.foldl (fun u c => c.atOnce u) s).answer

/-- 20_memory R42, row 3 of its table, and 93 U13: a host may read `busy` and `done` while it waits. A run
whose 13 steps are mixed with any number of status reads, in any order, ends as an undisturbed one: idle,
`done = 1`, the matrix transposed. (One move a tick is the model's choice: log 7.) -/
def Obligations.StatusPollingDoesNotDisturbARun : Prop :=
  ∀ (s : State) (wait : List Tick), s.busy = false → s.script = startOnly ++ wait →
    (∀ t ∈ wait, t = silentTick ∨ t = { reset := false, move := .readBusy } ∨
      t = { reset := false, move := .readDone }) →
    wait.count silentTick = 13 →
    ∃ t, run (wait.length + 1) s = .next t ∧ t.busy = false ∧ t.done = true ∧ t.step = 0 ∧
      t.script = [] ∧ ∀ i, i < 32 → memRead t.mat i = some (transposedRow s.mat.lookup i)

/-- The result of a run does not depend on what the vector registers held before it (10_state R15): two
idle engines with the same matrix buffer, all else arbitrary, end with the same matrix buffer. -/
def Obligations.ResultDoesNotDependOnOldRegisters : Prop :=
  ∀ s s' : State, s.busy = false → s'.busy = false → s.script = startOnly →
    s'.script = startOnly → (∀ i, i < 32 → memRead s.mat i = memRead s'.mat i) →
    ∃ t t', run 14 s = .next t ∧ run 14 s' = .next t' ∧ t.mat = t'.mat

/-- 70_reset R115. A reset during a run ends it without a result: before `STORE` has taken effect (at
most 12 steps done) the matrix buffer holds the operand untouched, after it (13 or more ticks) the
complete result; the sequencer is at its reset values, `done = 0`, in both. -/
def Obligations.ResetDuringARun : Prop :=
  ∀ (s : State) (n : Nat), s.busy = false →
    s.script = startOnly ++ List.replicate n silentTick ++ [resetTick] →
    ∃ t, run (n + 2) s = .next t ∧ t.busy = false ∧ t.done = false ∧ t.step = 0 ∧
      (n ≤ 12 → t.mat = s.mat) ∧
      (13 ≤ n → ∀ i, i < 32 → memRead t.mat i = some (transposedRow s.mat.lookup i))

/-- 43_transpose R92. Two runs in a row, with no host write between them, leave the matrix as it was. -/
def Obligations.TwoRunsRestoreTheMatrix : Prop :=
  ∀ s : State, s.busy = false →
    s.script = startOnly ++ List.replicate 13 silentTick ++ startOnly →
    ∃ t, run 28 s = .next t ∧ t.busy = false ∧ t.done = true ∧
      (∀ a : Nat, memRead t.mat a = memRead s.mat a) ∧
      (s.mat.wf = true → t.mat = s.mat)

/-- 43_transpose R93. A matrix is its own transpose exactly when it is symmetric; the all-zero, the
all-ones and the identity matrix are; a diagonal entry never moves. -/
def Obligations.FixedPointsAreTheSymmetricMatrices : Prop :=
  ∀ s : State, s.busy = false → s.script = startOnly → ∃ t, run 14 s = .next t ∧
    ((∀ i, i < 32 → t.mat.lookup i = s.mat.lookup i) ↔
      ∀ i j, i < 32 → j < 32 →
        (s.mat.lookup i).getLsbD j = (s.mat.lookup j).getLsbD i) ∧
    (((∀ i, i < 32 → s.mat.lookup i = 0) ∨ (∀ i, i < 32 → s.mat.lookup i = 0xFFFFFFFF) ∨
        (∀ i, i < 32 → s.mat.lookup i = (1 : Word) <<< i)) →
      ∀ i, i < 32 → t.mat.lookup i = s.mat.lookup i) ∧
    ∀ i, i < 32 → (t.mat.lookup i).getLsbD i = (s.mat.lookup i).getLsbD i

/-- 43_transpose R94. Every micro-operation, and the whole transform, is linear over XOR. -/
def Obligations.EveryStepIsLinearOverXor : Prop :=
  (∀ (i : Instr) (s t s' t' : State), exec i s = .next s' → exec i t = .next t' →
      exec i (xorState s t) = .next (xorState s' t')) ∧
    ∀ s u x : State, s.busy = false → u.busy = false → x.busy = false → s.script = startOnly →
      u.script = startOnly → x.script = startOnly →
      (∀ i, i < 32 → x.mat.lookup i = s.mat.lookup i ^^^ u.mat.lookup i) →
      ∃ s' u' x', run 14 s = .next s' ∧ run 14 u = .next u' ∧ run 14 x = .next x' ∧
        ∀ i, i < 32 → x'.mat.lookup i = s'.mat.lookup i ^^^ u'.mat.lookup i

/-- 43_transpose R98, its localisation: a single 1 entry at (row `a`, column `c`) goes to (row `c`,
column `a`), and the row 0b11 at row 0 becomes bit 0 of rows 0 and 1. -/
def Obligations.SingleEntryMovesAcrossTheDiagonal : Prop :=
  ∀ s : State, s.busy = false → s.script = startOnly → ∃ t, run 14 s = .next t ∧
    (∀ a c, a < 32 → c < 32 →
      (∀ i, i < 32 → s.mat.lookup i = if i = a then (1 : Word) <<< c else 0) →
        ∀ i, i < 32 → t.mat.lookup i = if i = c then (1 : Word) <<< a else 0) ∧
    ((∀ i, i < 32 → s.mat.lookup i = if i = 0 then 0b11 else 0) →
      ∀ i, i < 32 → t.mat.lookup i = if i = 0 ∨ i = 1 then 1 else 0)

/-- 43_transpose R98, its last sentence: the number of 1 entries is preserved by `TRANSPOSE` and by
every micro-operation, from what it reads to what it writes. -/
def Obligations.NumberOfOnesIsPreserved : Prop :=
  (∀ s : State, s.busy = false → s.script = startOnly → ∃ t, run 14 s = .next t ∧
      onesOfMatrix t.mat = onesOfMatrix s.mat) ∧
    (∀ s : State, ∃ t, exec .load s = .next t ∧
      onesOfVectors t.v0 t.v1 = onesOfMatrix s.mat) ∧
    (∀ (k : BlockSize) (s : State), ∃ t, exec (swzOf k) s = .next t ∧
      onesOfVectors t.p0 t.p1 = onesOfVectors s.v0 s.v1) ∧
    (∀ (k : BlockSize) (s : State), ∃ t, exec (mrgOf k) s = .next t ∧
      onesOfVectors t.v0 t.v1 = onesOfVectors s.p0 s.p1) ∧
    (∀ s : State, ∃ t, exec .ilv s = .next t ∧
      onesOfVectors t.p0 t.p1 = onesOfVectors s.v0 s.v1) ∧
    ∀ s : State, ∃ t, exec .store s = .next t ∧
      onesOfMatrix t.mat = onesOfVectors s.p0 s.p1

/-- 43_transpose R95. Any family of index arrays that meets the pairing requirement at every stage,
with a final permutation that restores ascending order, computes the transpose; the machine's own
arrays are such a family, and a run of the machine stores what they compute. -/
def Obligations.AnyPairedFamilyTransposes : Prop :=
  (∀ (family : BlockSize → IndexArray × IndexArray) (final : IndexArray × IndexArray) (s : State),
      familyFits family final = true → ∀ i, i < 32 →
        (transposeWith family final s).mat.lookup i = transposedRow s.mat.lookup i) ∧
    familyFits romFamily (ilvP0, ilvP1) = true ∧
    ∀ s : State, s.busy = false → s.script = startOnly → ∃ t, run 14 s = .next t ∧
      t.mat = (transposeWith romFamily (ilvP0, ilvP1) s).mat
end

