-- ==== Sys2Proof/Laws/Memory.lean ====
section
/-! SUPPORT. The matrix space: what a write leaves to read, that every operation keeps the canonical
form `Memory.wf`, and that in that form equal contents are equal lists. -/

namespace Sys2Proof.Machine

theorem rowIndexWf_iff (i : Nat) : rowIndexWf i = true ↔ i < 32 := by simp [rowIndexWf]

/-- The canonical form as three facts. -/
theorem Memory.wf_iff (m : Memory) :
    m.wf = true ↔ m.Pairwise (fun a b => a.1 < b.1) ∧
      (∀ c ∈ m, c.1 < 32) ∧ ∀ c ∈ m, c.2 ≠ unlistedRow := by
  simp only [Memory.wf, Bool.and_eq_true, decide_eq_true_eq, List.all_eq_true]
  constructor
  · rintro ⟨h, k⟩
    exact ⟨h, fun c hc => (k c hc).1, fun c hc => (k c hc).2⟩
  · rintro ⟨h, k, l⟩
    exact ⟨h, fun c hc => ⟨k c hc, l c hc⟩⟩

theorem Memory.wf_nil : Memory.wf [] = true := rfl

/-- A canonical buffer's tail is canonical. -/
theorem Memory.wf_tail {c : RowCell} {m : Memory} (h : Memory.wf (c :: m) = true) :
    m.wf = true := by
  rw [Memory.wf_iff] at h ⊢
  exact ⟨(List.pairwise_cons.mp h.1).2, fun d hd => h.2.1 d (List.mem_cons_of_mem _ hd),
    fun d hd => h.2.2 d (List.mem_cons_of_mem _ hd)⟩

/-- A row that no cell lists reads as an unlisted row. -/
theorem Memory.lookup_of_not_listed (m : Memory) (i : Nat) (h : ∀ c ∈ m, c.1 ≠ i) :
    m.lookup i = unlistedRow := by
  induction m with
  | nil => rfl
  | cons c m ih =>
    obtain ⟨j, w⟩ := c
    have hj : i ≠ j := fun e => h (j, w) List.mem_cons_self e.symm
    simp only [Memory.lookup, if_neg hj]
    exact ih fun d hd => h d (List.mem_cons_of_mem _ hd)

/-- Below the first listed row of a canonical buffer nothing is listed. -/
theorem Memory.lookup_tail_of_le {j i : Nat} {w : Word} {m : Memory}
    (h : Memory.wf ((j, w) :: m) = true) (hi : i ≤ j) : m.lookup i = unlistedRow := by
  rw [Memory.wf_iff] at h
  refine Memory.lookup_of_not_listed m i fun c hc e => ?_
  have := (List.pairwise_cons.mp h.1).1 c hc
  simp only at this
  omega

/-- Read after write, same row. -/
theorem Memory.lookup_put_same (m : Memory) (i : Nat) (w : Word) (h : m.wf = true) :
    (m.put i w).lookup i = w := by
  induction m with
  | nil => by_cases hw : w = unlistedRow <;> simp [Memory.put, Memory.lookup, hw]
  | cons c m ih =>
    obtain ⟨j, x⟩ := c
    rcases Nat.lt_trichotomy i j with hij | rfl | hij
    · by_cases hw : w = unlistedRow
      · simp only [Memory.put, if_pos hij, if_pos hw, Memory.lookup, if_neg (Nat.ne_of_lt hij)]
        rw [Memory.lookup_tail_of_le h (Nat.le_of_lt hij), hw]
      · simp [Memory.put, Memory.lookup, hij, hw]
    · by_cases hw : w = unlistedRow
      · simp only [Memory.put, lt_irrefl, if_false, if_true, if_pos hw]
        rw [Memory.lookup_tail_of_le h (Nat.le_refl _), hw]
      · simp [Memory.put, Memory.lookup, hw]
    · simp only [Memory.put, if_neg (Nat.not_lt.mpr (Nat.le_of_lt hij)),
        if_neg (Nat.ne_of_gt hij), Memory.lookup]
      exact ih (Memory.wf_tail h)

/-- A write leaves every other row as it was. -/
theorem Memory.lookup_put_other (m : Memory) (i i' : Nat) (w : Word) (hne : i' ≠ i) :
    (m.put i w).lookup i' = m.lookup i' := by
  induction m with
  | nil => by_cases hw : w = unlistedRow <;> simp [Memory.put, Memory.lookup, hw, hne]
  | cons c m ih =>
    obtain ⟨j, x⟩ := c
    rcases Nat.lt_trichotomy i j with hij | rfl | hij
    · by_cases hw : w = unlistedRow <;> simp [Memory.put, Memory.lookup, hij, hw, hne]
    · by_cases hw : w = unlistedRow <;> simp [Memory.put, Memory.lookup, hw, hne]
    · simp only [Memory.put, if_neg (Nat.not_lt.mpr (Nat.le_of_lt hij)),
        if_neg (Nat.ne_of_gt hij), Memory.lookup, ih]

/-- Every cell of a written buffer is the new one or an old one. -/
theorem Memory.mem_put (m : Memory) (i : Nat) (w : Word) (c : RowCell) (hc : c ∈ m.put i w) :
    (c = (i, w) ∧ w ≠ unlistedRow) ∨ c ∈ m := by
  induction m with
  | nil => by_cases hw : w = unlistedRow <;> simp_all [Memory.put]
  | cons d m ih =>
    obtain ⟨j, x⟩ := d
    rcases Nat.lt_trichotomy i j with hij | rfl | hij
    · by_cases hw : w = unlistedRow <;> simp_all [Memory.put]
    · by_cases hw : w = unlistedRow
      · simp_all [Memory.put]
      · simp only [Memory.put, lt_irrefl, if_false, if_true, if_neg hw, List.mem_cons] at hc ⊢
        rcases hc with hc | hc
        · exact .inl ⟨hc, hw⟩
        · exact .inr (.inr hc)
    · simp only [Memory.put, if_neg (Nat.not_lt.mpr (Nat.le_of_lt hij)),
        if_neg (Nat.ne_of_gt hij), List.mem_cons] at hc ⊢
      rcases hc with hc | hc
      · exact .inr (.inl hc)
      · exact (ih hc).imp id .inr

/-- A write to an existing row keeps the canonical form. -/
theorem Memory.put_wf (m : Memory) (i : Nat) (w : Word) (h : m.wf = true) (hi : i < 32) :
    (m.put i w).wf = true := by
  rw [Memory.wf_iff]
  have hall := (Memory.wf_iff m).mp h
  refine ⟨?_, fun c hc => ?_, fun c hc => ?_⟩
  · induction m with
    | nil => by_cases hw : w = unlistedRow <;> simp [Memory.put, hw]
    | cons d m ih =>
      obtain ⟨j, x⟩ := d
      have hp := List.pairwise_cons.mp hall.1
      have hsub := ih (Memory.wf_tail h) ((Memory.wf_iff m).mp (Memory.wf_tail h))
      rcases Nat.lt_trichotomy i j with hij | rfl | hij
      · by_cases hw : w = unlistedRow
        · simpa [Memory.put, hij, hw] using hp
        · simp only [Memory.put, if_pos hij, if_neg hw]
          refine List.pairwise_cons.mpr ⟨fun c hc => ?_, hall.1⟩
          rcases List.mem_cons.mp hc with rfl | hc
          · exact hij
          · exact Nat.lt_trans hij (hp.1 c hc)
      · by_cases hw : w = unlistedRow
        · simpa [Memory.put, hw] using hp.2
        · simpa [Memory.put, hw] using hp
      · simp only [Memory.put, if_neg (Nat.not_lt.mpr (Nat.le_of_lt hij)),
          if_neg (Nat.ne_of_gt hij)]
        refine List.pairwise_cons.mpr ⟨fun c hc => ?_, hsub⟩
        rcases Memory.mem_put m i w c hc with ⟨rfl, _⟩ | hc
        · exact hij
        · exact hp.1 c hc
  · rcases Memory.mem_put m i w c hc with ⟨rfl, _⟩ | hc
    · exact hi
    · exact hall.2.1 c hc
  · rcases Memory.mem_put m i w c hc with ⟨rfl, hw⟩ | hc
    · exact hw
    · exact hall.2.2 c hc

/-- Every defined `MemWrite` keeps the canonical form. -/
theorem memWrite_wf (m m' : Memory) (i : Nat) (w : Word) (h : m.wf = true)
    (hw : memWrite m i w = some m') : m'.wf = true := by
  by_cases hi : i < 32
  · simp only [memWrite, (rowIndexWf_iff i).mpr hi, if_true, Option.some.injEq] at hw
    exact hw ▸ Memory.put_wf m i w h hi
  · simp [memWrite, rowIndexWf, hi] at hw

/-- The cells of `Memory.ofRows f`: row `i` is listed, with `f i`, exactly where that is not what an
unlisted row reads as. -/
theorem Memory.mem_ofRows (f : Nat → Word) (c : RowCell) :
    c ∈ Memory.ofRows f ↔ c.1 < 32 ∧ c.2 = f c.1 ∧ f c.1 ≠ unlistedRow := by
  obtain ⟨j, x⟩ := c
  simp only [Memory.ofRows, List.mem_filterMap, List.mem_range]
  constructor
  · rintro ⟨i, hi, h⟩
    split at h
    · cases h
    · cases h; exact ⟨hi, rfl, by assumption⟩
  · rintro ⟨hj, hx, hne⟩
    exact ⟨j, hj, by simp_all⟩

/-- `Memory.ofRows` is canonical whatever the rows are. -/
theorem Memory.ofRows_wf (f : Nat → Word) : (Memory.ofRows f).wf = true := by
  rw [Memory.wf_iff]
  refine ⟨?_, fun c hc => ((Memory.mem_ofRows f c).mp hc).1, fun c hc => ?_⟩
  · refine List.Pairwise.filterMap _ (R := fun a b => a < b) ?_ List.pairwise_lt_range
    intro i j hij c hc d hd
    split at hc
    · cases hc
    · split at hd
      · cases hd
      · cases hc; cases hd; exact hij
  · have := (Memory.mem_ofRows f c).mp hc
    exact this.2.1 ▸ this.2.2

/-- Two listed cells decide a lookup: a canonical buffer holds at row `i` the word a cell lists. -/
theorem Memory.lookup_of_mem (m : Memory) (h : m.wf = true) (c : RowCell) (hc : c ∈ m) :
    m.lookup c.1 = c.2 := by
  induction m with
  | nil => cases hc
  | cons d m ih =>
    obtain ⟨j, x⟩ := d
    rcases List.mem_cons.mp hc with rfl | hm
    · simp [Memory.lookup]
    · have hlt := (List.pairwise_cons.mp ((Memory.wf_iff _).mp h).1).1 c hm
      simp only at hlt
      simp only [Memory.lookup, if_neg (Nat.ne_of_gt hlt)]
      exact ih (Memory.wf_tail h) hm

/-- `Memory.ofRows f` holds `f i` at each of the 32 rows. -/
theorem Memory.lookup_ofRows (f : Nat → Word) (i : Nat) (hi : i < 32) :
    (Memory.ofRows f).lookup i = f i := by
  by_cases hf : f i = unlistedRow
  · rw [hf]
    refine Memory.lookup_of_not_listed _ i fun c hc e => ?_
    have := (Memory.mem_ofRows f c).mp hc
    exact this.2.2 (e ▸ hf)
  · exact Memory.lookup_of_mem _ (Memory.ofRows_wf f) (i, f i)
      ((Memory.mem_ofRows f (i, f i)).mpr ⟨hi, rfl, hf⟩)

/-- Beyond the 32 rows a canonical buffer lists nothing. -/
theorem Memory.lookup_of_ge (m : Memory) (h : m.wf = true) (i : Nat) (hi : 32 ≤ i) :
    m.lookup i = unlistedRow := by
  refine Memory.lookup_of_not_listed m i fun c hc e => ?_
  have := ((Memory.wf_iff m).mp h).2.1 c hc
  omega

/-- `Memory.ofRows` depends on the 32 rows only. -/
theorem Memory.ofRows_congr (f g : Nat → Word) (h : ∀ i, i < 32 → f i = g i) :
    Memory.ofRows f = Memory.ofRows g := by
  unfold Memory.ofRows
  refine List.filterMap_congr fun i hi => ?_
  rw [h i (List.mem_range.mp hi)]

/-- In canonical form, equal contents are equal lists. -/
theorem Memory.ext_of_wf (m m' : Memory) (h : m.wf = true) (h' : m'.wf = true)
    (heq : ∀ i, i < 32 → m.lookup i = m'.lookup i) : m = m' := by
  have sub : ∀ (a b : Memory), a.wf = true → b.wf = true →
      (∀ i, i < 32 → a.lookup i = b.lookup i) → ∀ c ∈ a, c ∈ b := by
    intro a b ha hb hab c hc
    have hA := (Memory.wf_iff a).mp ha
    by_contra hn
    have hl := Memory.lookup_of_mem a ha c hc
    rw [hab c.1 (hA.2.1 c hc)] at hl
    by_cases hex : ∃ d ∈ b, d.1 = c.1
    · obtain ⟨d, hd, hdc⟩ := hex
      have := Memory.lookup_of_mem b hb d hd
      rw [hdc, hl] at this
      exact hn (by rw [show c = d from Prod.ext hdc.symm this]; exact hd)
    · rw [Memory.lookup_of_not_listed b c.1 fun d hd e => hex ⟨d, hd, e⟩] at hl
      exact hA.2.2 c hc hl.symm
  have nd : ∀ (a : Memory), a.wf = true → a.Nodup := fun a ha =>
    ((Memory.wf_iff a).mp ha).1.imp fun hlt e => by simp [e] at hlt
  have hp : m.Perm m' := (List.perm_ext_iff_of_nodup (nd m h) (nd m' h')).mpr fun c =>
    ⟨sub m m' h h' heq c, sub m' m h' h (fun i hi => (heq i hi).symm) c⟩
  refine hp.eq_of_pairwise (le := fun a b => a.1 < b.1) ?_ ((Memory.wf_iff m).mp h).1
    ((Memory.wf_iff m').mp h').1
  intro a b _ _ hab hba
  exact absurd (Nat.lt_trans hab hba) (Nat.lt_irrefl _)

end Sys2Proof.Machine
end

