-- ==== Sys2Proof/Laws/State.lean ====
section
/-! SUPPORT. One lemma per field per named update of the state, all true by `rfl`, so that no proof
unfolds a record update. -/

namespace Sys2Proof.Machine

variable (s : State)

/-! ### `State.withSequencer` -/

@[simp] theorem State.withSequencer_mat (b d : Bool) (n : BitVec 4) :
    (s.withSequencer b d n).mat = s.mat := rfl
@[simp] theorem State.withSequencer_v0 (b d : Bool) (n : BitVec 4) :
    (s.withSequencer b d n).v0 = s.v0 := rfl
@[simp] theorem State.withSequencer_v1 (b d : Bool) (n : BitVec 4) :
    (s.withSequencer b d n).v1 = s.v1 := rfl
@[simp] theorem State.withSequencer_p0 (b d : Bool) (n : BitVec 4) :
    (s.withSequencer b d n).p0 = s.p0 := rfl
@[simp] theorem State.withSequencer_p1 (b d : Bool) (n : BitVec 4) :
    (s.withSequencer b d n).p1 = s.p1 := rfl
@[simp] theorem State.withSequencer_busy (b d : Bool) (n : BitVec 4) :
    (s.withSequencer b d n).busy = b := rfl
@[simp] theorem State.withSequencer_done (b d : Bool) (n : BitVec 4) :
    (s.withSequencer b d n).done = d := rfl
@[simp] theorem State.withSequencer_step (b d : Bool) (n : BitVec 4) :
    (s.withSequencer b d n).step = n := rfl
@[simp] theorem State.withSequencer_script (b d : Bool) (n : BitVec 4) :
    (s.withSequencer b d n).script = s.script := rfl
@[simp] theorem State.withSequencer_answer (b d : Bool) (n : BitVec 4) :
    (s.withSequencer b d n).answer = s.answer := rfl
@[simp] theorem State.withSequencer_freeCount (b d : Bool) (n : BitVec 4) :
    (s.withSequencer b d n).freeCount = s.freeCount := rfl

/-! ### `State.startSequencer` -/

@[simp] theorem State.startSequencer_mat : (s.startSequencer).mat = s.mat := rfl
@[simp] theorem State.startSequencer_v0 : (s.startSequencer).v0 = s.v0 := rfl
@[simp] theorem State.startSequencer_v1 : (s.startSequencer).v1 = s.v1 := rfl
@[simp] theorem State.startSequencer_p0 : (s.startSequencer).p0 = s.p0 := rfl
@[simp] theorem State.startSequencer_p1 : (s.startSequencer).p1 = s.p1 := rfl
@[simp] theorem State.startSequencer_busy : (s.startSequencer).busy = true := rfl
@[simp] theorem State.startSequencer_done : (s.startSequencer).done = false := rfl
@[simp] theorem State.startSequencer_step : (s.startSequencer).step = 0 := rfl
@[simp] theorem State.startSequencer_script : (s.startSequencer).script = s.script := rfl
@[simp] theorem State.startSequencer_answer : (s.startSequencer).answer = s.answer := rfl
@[simp] theorem State.startSequencer_freeCount : (s.startSequencer).freeCount = s.freeCount := rfl

/-! ### `State.completeSequencer` -/

@[simp] theorem State.completeSequencer_mat : (s.completeSequencer).mat = s.mat := rfl
@[simp] theorem State.completeSequencer_v0 : (s.completeSequencer).v0 = s.v0 := rfl
@[simp] theorem State.completeSequencer_v1 : (s.completeSequencer).v1 = s.v1 := rfl
@[simp] theorem State.completeSequencer_p0 : (s.completeSequencer).p0 = s.p0 := rfl
@[simp] theorem State.completeSequencer_p1 : (s.completeSequencer).p1 = s.p1 := rfl
@[simp] theorem State.completeSequencer_busy : (s.completeSequencer).busy = false := rfl
@[simp] theorem State.completeSequencer_done : (s.completeSequencer).done = true := rfl
@[simp] theorem State.completeSequencer_step : (s.completeSequencer).step = 0 := rfl
@[simp] theorem State.completeSequencer_script : (s.completeSequencer).script = s.script := rfl
@[simp] theorem State.completeSequencer_answer : (s.completeSequencer).answer = s.answer := rfl
@[simp] theorem State.completeSequencer_freeCount :
    (s.completeSequencer).freeCount = s.freeCount := rfl

/-! ### `State.resetSequencer` -/

@[simp] theorem State.resetSequencer_mat : (s.resetSequencer).mat = s.mat := rfl
@[simp] theorem State.resetSequencer_v0 : (s.resetSequencer).v0 = s.v0 := rfl
@[simp] theorem State.resetSequencer_v1 : (s.resetSequencer).v1 = s.v1 := rfl
@[simp] theorem State.resetSequencer_p0 : (s.resetSequencer).p0 = s.p0 := rfl
@[simp] theorem State.resetSequencer_p1 : (s.resetSequencer).p1 = s.p1 := rfl
@[simp] theorem State.resetSequencer_busy : (s.resetSequencer).busy = false := rfl
@[simp] theorem State.resetSequencer_done : (s.resetSequencer).done = false := rfl
@[simp] theorem State.resetSequencer_step : (s.resetSequencer).step = 0 := rfl
@[simp] theorem State.resetSequencer_script : (s.resetSequencer).script = s.script := rfl
@[simp] theorem State.resetSequencer_answer : (s.resetSequencer).answer = s.answer := rfl
@[simp] theorem State.resetSequencer_freeCount : (s.resetSequencer).freeCount = s.freeCount := rfl

/-! ### `State.withV` -/

@[simp] theorem State.withV_mat (a0 a1 : Lanes) : (s.withV a0 a1).mat = s.mat := rfl
@[simp] theorem State.withV_v0 (a0 a1 : Lanes) : (s.withV a0 a1).v0 = a0 := rfl
@[simp] theorem State.withV_v1 (a0 a1 : Lanes) : (s.withV a0 a1).v1 = a1 := rfl
@[simp] theorem State.withV_p0 (a0 a1 : Lanes) : (s.withV a0 a1).p0 = s.p0 := rfl
@[simp] theorem State.withV_p1 (a0 a1 : Lanes) : (s.withV a0 a1).p1 = s.p1 := rfl
@[simp] theorem State.withV_busy (a0 a1 : Lanes) : (s.withV a0 a1).busy = s.busy := rfl
@[simp] theorem State.withV_done (a0 a1 : Lanes) : (s.withV a0 a1).done = s.done := rfl
@[simp] theorem State.withV_step (a0 a1 : Lanes) : (s.withV a0 a1).step = s.step := rfl
@[simp] theorem State.withV_script (a0 a1 : Lanes) : (s.withV a0 a1).script = s.script := rfl
@[simp] theorem State.withV_answer (a0 a1 : Lanes) : (s.withV a0 a1).answer = s.answer := rfl
@[simp] theorem State.withV_freeCount (a0 a1 : Lanes) :
    (s.withV a0 a1).freeCount = s.freeCount := rfl

/-! ### `State.withP` -/

@[simp] theorem State.withP_mat (a0 a1 : Lanes) : (s.withP a0 a1).mat = s.mat := rfl
@[simp] theorem State.withP_v0 (a0 a1 : Lanes) : (s.withP a0 a1).v0 = s.v0 := rfl
@[simp] theorem State.withP_v1 (a0 a1 : Lanes) : (s.withP a0 a1).v1 = s.v1 := rfl
@[simp] theorem State.withP_p0 (a0 a1 : Lanes) : (s.withP a0 a1).p0 = a0 := rfl
@[simp] theorem State.withP_p1 (a0 a1 : Lanes) : (s.withP a0 a1).p1 = a1 := rfl
@[simp] theorem State.withP_busy (a0 a1 : Lanes) : (s.withP a0 a1).busy = s.busy := rfl
@[simp] theorem State.withP_done (a0 a1 : Lanes) : (s.withP a0 a1).done = s.done := rfl
@[simp] theorem State.withP_step (a0 a1 : Lanes) : (s.withP a0 a1).step = s.step := rfl
@[simp] theorem State.withP_script (a0 a1 : Lanes) : (s.withP a0 a1).script = s.script := rfl
@[simp] theorem State.withP_answer (a0 a1 : Lanes) : (s.withP a0 a1).answer = s.answer := rfl
@[simp] theorem State.withP_freeCount (a0 a1 : Lanes) :
    (s.withP a0 a1).freeCount = s.freeCount := rfl

/-! ### `State.withMat` -/

@[simp] theorem State.withMat_mat (m : Memory) : (s.withMat m).mat = m := rfl
@[simp] theorem State.withMat_v0 (m : Memory) : (s.withMat m).v0 = s.v0 := rfl
@[simp] theorem State.withMat_v1 (m : Memory) : (s.withMat m).v1 = s.v1 := rfl
@[simp] theorem State.withMat_p0 (m : Memory) : (s.withMat m).p0 = s.p0 := rfl
@[simp] theorem State.withMat_p1 (m : Memory) : (s.withMat m).p1 = s.p1 := rfl
@[simp] theorem State.withMat_busy (m : Memory) : (s.withMat m).busy = s.busy := rfl
@[simp] theorem State.withMat_done (m : Memory) : (s.withMat m).done = s.done := rfl
@[simp] theorem State.withMat_step (m : Memory) : (s.withMat m).step = s.step := rfl
@[simp] theorem State.withMat_script (m : Memory) : (s.withMat m).script = s.script := rfl
@[simp] theorem State.withMat_answer (m : Memory) : (s.withMat m).answer = s.answer := rfl
@[simp] theorem State.withMat_freeCount (m : Memory) : (s.withMat m).freeCount = s.freeCount := rfl

/-! ### `State.withAnswer` -/

@[simp] theorem State.withAnswer_mat (a : Answer) : (s.withAnswer a).mat = s.mat := rfl
@[simp] theorem State.withAnswer_v0 (a : Answer) : (s.withAnswer a).v0 = s.v0 := rfl
@[simp] theorem State.withAnswer_v1 (a : Answer) : (s.withAnswer a).v1 = s.v1 := rfl
@[simp] theorem State.withAnswer_p0 (a : Answer) : (s.withAnswer a).p0 = s.p0 := rfl
@[simp] theorem State.withAnswer_p1 (a : Answer) : (s.withAnswer a).p1 = s.p1 := rfl
@[simp] theorem State.withAnswer_busy (a : Answer) : (s.withAnswer a).busy = s.busy := rfl
@[simp] theorem State.withAnswer_done (a : Answer) : (s.withAnswer a).done = s.done := rfl
@[simp] theorem State.withAnswer_step (a : Answer) : (s.withAnswer a).step = s.step := rfl
@[simp] theorem State.withAnswer_script (a : Answer) : (s.withAnswer a).script = s.script := rfl
@[simp] theorem State.withAnswer_answer (a : Answer) : (s.withAnswer a).answer = some a := rfl
@[simp] theorem State.withAnswer_freeCount (a : Answer) :
    (s.withAnswer a).freeCount = s.freeCount := rfl

/-! ### `State.withScript` -/

@[simp] theorem State.withScript_mat (ticks : List Tick) : (s.withScript ticks).mat = s.mat := rfl
@[simp] theorem State.withScript_v0 (ticks : List Tick) : (s.withScript ticks).v0 = s.v0 := rfl
@[simp] theorem State.withScript_v1 (ticks : List Tick) : (s.withScript ticks).v1 = s.v1 := rfl
@[simp] theorem State.withScript_p0 (ticks : List Tick) : (s.withScript ticks).p0 = s.p0 := rfl
@[simp] theorem State.withScript_p1 (ticks : List Tick) : (s.withScript ticks).p1 = s.p1 := rfl
@[simp] theorem State.withScript_busy (ticks : List Tick) :
    (s.withScript ticks).busy = s.busy := rfl
@[simp] theorem State.withScript_done (ticks : List Tick) :
    (s.withScript ticks).done = s.done := rfl
@[simp] theorem State.withScript_step (ticks : List Tick) :
    (s.withScript ticks).step = s.step := rfl
@[simp] theorem State.withScript_script (ticks : List Tick) :
    (s.withScript ticks).script = ticks := rfl
@[simp] theorem State.withScript_answer (ticks : List Tick) :
    (s.withScript ticks).answer = s.answer := rfl
@[simp] theorem State.withScript_freeCount (ticks : List Tick) :
    (s.withScript ticks).freeCount = s.freeCount := rfl

/-! ### `State.scramble` -/

@[simp] theorem State.scramble_mat : (s.scramble).mat = s.mat := rfl
@[simp] theorem State.scramble_v0 : (s.scramble).v0 = freeLanes s.freeCount := rfl
@[simp] theorem State.scramble_v1 : (s.scramble).v1 = freeLanes (s.freeCount + 16) := rfl
@[simp] theorem State.scramble_p0 : (s.scramble).p0 = freeLanes (s.freeCount + 32) := rfl
@[simp] theorem State.scramble_p1 : (s.scramble).p1 = freeLanes (s.freeCount + 48) := rfl
@[simp] theorem State.scramble_busy : (s.scramble).busy = s.busy := rfl
@[simp] theorem State.scramble_done : (s.scramble).done = s.done := rfl
@[simp] theorem State.scramble_step : (s.scramble).step = s.step := rfl
@[simp] theorem State.scramble_script : (s.scramble).script = s.script := rfl
@[simp] theorem State.scramble_answer : (s.scramble).answer = s.answer := rfl
@[simp] theorem State.scramble_freeCount : (s.scramble).freeCount = s.freeCount + 64 := rfl

end Sys2Proof.Machine
end

