-- ==== Sys2Proof/Laws/Ops.lean ====
section
/-! SUPPORT. One lemma for each shared operation, saying once what it can do; later proofs cite these
instead of unfolding the operation. -/

namespace Sys2Proof.Machine

/-! ### Operand forms -/

theorem effectiveRow_lt (d : Fin 2) (l : Fin 16) : effectiveRow d l < 32 := by
  simp only [effectiveRow]; omega

@[simp] theorem effectiveRow_zero (l : Fin 16) : effectiveRow 0 l = l.val := by
  simp [effectiveRow]

@[simp] theorem effectiveRow_one (l : Fin 16) : effectiveRow 1 l = 16 + l.val := by
  simp [effectiveRow]

/-- Row `l` of two vectors is lane `l` of the first. -/
@[simp] theorem rowOfVectors_lower (a0 a1 : Lanes) (l : Fin 16) :
    rowOfVectors a0 a1 l.val = a0[l] := by
  have h : laneOfRow l.val = l := Fin.ext (Nat.mod_eq_of_lt l.isLt)
  simp [rowOfVectors, rowInUpperVector, h, Nat.not_le.mpr l.isLt]

/-- Row `16 + l` of two vectors is lane `l` of the second. -/
@[simp] theorem rowOfVectors_upper (a0 a1 : Lanes) (l : Fin 16) :
    rowOfVectors a0 a1 (16 + l.val) = a1[l] := by
  have h : laneOfRow (16 + l.val) = l :=
    Fin.ext (by simp [laneOfRow, Nat.mod_eq_of_lt l.isLt])
  simp [rowOfVectors, rowInUpperVector, h]

/-- A row index below 32 is the effective row of exactly one vector and lane. -/
theorem row_cases (i : Nat) (hi : i < 32) :
    (∃ l : Fin 16, i = l.val) ∨ ∃ l : Fin 16, i = 16 + l.val := by
  by_cases h : i < 16
  · exact .inl ⟨⟨i, h⟩, rfl⟩
  · exact .inr ⟨⟨i - 16, by omega⟩, by simp only; omega⟩

/-! ### Data movement -/

/-- `loadVectors` writes `V0` and `V1` from the 32 rows and nothing else. -/
theorem loadVectors_spec (s : State) :
    (∀ l : Fin 16, (loadVectors s).v0[l] = s.mat.lookup l.val) ∧
      (∀ l : Fin 16, (loadVectors s).v1[l] = s.mat.lookup (16 + l.val)) ∧
      loadVectors s = s.withV (loadVectors s).v0 (loadVectors s).v1 := by
  refine ⟨fun l => ?_, fun l => ?_, rfl⟩ <;> simp [loadVectors, effectiveRow]

/-- `storeVectors` writes the 32 rows from `P0` and `P1` and nothing else. -/
theorem storeVectors_spec (s : State) :
    (∀ l : Fin 16, (storeVectors s).mat.lookup l.val = s.p0[l]) ∧
      (∀ l : Fin 16, (storeVectors s).mat.lookup (16 + l.val) = s.p1[l]) ∧
      (storeVectors s).mat.wf = true ∧
      storeVectors s = s.withMat (storeVectors s).mat := by
  refine ⟨fun l => ?_, fun l => ?_, Memory.ofRows_wf _, rfl⟩
  · simp only [storeVectors, State.withMat_mat]
    rw [Memory.lookup_ofRows _ _ (by omega), rowOfVectors_lower]
  · simp only [storeVectors, State.withMat_mat]
    rw [Memory.lookup_ofRows _ _ (by omega), rowOfVectors_upper]

/-- `permute` writes each lane of `P0` and `P1` from the position its index entry names, and nothing
else. -/
theorem permute_spec (a0 a1 : IndexArray) (s : State) :
    (∀ l : Fin 16, (permute a0 a1 s).p0[l] = s.cat a0[l]) ∧
      (∀ l : Fin 16, (permute a0 a1 s).p1[l] = s.cat a1[l]) ∧
      permute a0 a1 s = s.withP (permute a0 a1 s).p0 (permute a0 a1 s).p1 := by
  refine ⟨fun l => ?_, fun l => ?_, rfl⟩ <;> simp [permute]

/-- `merge k` writes each lane of `V0` and `V1` from the same lane of `P0` and `P1`, and nothing
else. -/
theorem merge_spec (k : BlockSize) (s : State) :
    (∀ l : Fin 16, (merge k s).v0[l] = mergeLo k s.p0[l] s.p1[l]) ∧
      (∀ l : Fin 16, (merge k s).v1[l] = mergeHi k s.p0[l] s.p1[l]) ∧
      merge k s = s.withV (merge k s).v0 (merge k s).v1 := by
  refine ⟨fun l => ?_, fun l => ?_, rfl⟩ <;> simp [merge]

/-! ### The sequencer and reset -/

/-- `fetch` answers a word exactly at the 13 legal values of `step`. -/
theorem fetch_isSome_iff (s : State) : (fetch s).isSome ↔ s.step.toNat ≤ 12 := by
  have h : seqRom.length = 13 := rfl
  simp only [fetch, isSome_getElem?, h]
  omega

/-- `advance` completes the run after step 12 and otherwise moves `step` on by one. -/
theorem advance_cases (s : State) :
    (s.step = 12 ∧ advance s = s.completeSequencer) ∨
      (s.step ≠ 12 ∧ advance s = s.withSequencer s.busy s.done (s.step + 1)) := by
  by_cases h : s.step = 12
  · exact .inl ⟨h, if_pos h⟩
  · exact .inr ⟨h, if_neg h⟩

/-- `advance` changes the sequencer only. -/
theorem advance_frame (s : State) :
    advance s = s.withSequencer (advance s).busy (advance s).done (advance s).step := by
  rcases advance_cases s with ⟨_, h⟩ | ⟨_, h⟩ <;> rw [h] <;> rfl

/-- The reset input sets the sequencer and leaves the vector registers with free values; the matrix
buffer and the host's side stay. -/
theorem resetEngine_spec (s : State) :
    (resetEngine s).busy = false ∧ (resetEngine s).done = false ∧ (resetEngine s).step = 0 ∧
      (resetEngine s).mat = s.mat ∧ (resetEngine s).script = s.script ∧
      (resetEngine s).answer = s.answer := by
  simp [resetEngine]

end Sys2Proof.Machine
end

