-- ==== Sys2Proof/Laws/PerInstr.lean ====
section
/-! SUPPORT. Families of statements about every micro-operation as syntax, one lemma for each. -/

namespace Sys2Proof.Laws.EncodedFieldsLegal

/-- The field pair of the encoded control word is a legal one (30_encoding R48, R49). -/
abbrev Statement (i : Instr) : Prop := (fieldsOf (encode i)).wf = true

theorem load : Statement .load := by decide
theorem swz16 : Statement .swz16 := by decide
theorem mrg16 : Statement .mrg16 := by decide
theorem swz8 : Statement .swz8 := by decide
theorem mrg8 : Statement .mrg8 := by decide
theorem swz4 : Statement .swz4 := by decide
theorem mrg4 : Statement .mrg4 := by decide
theorem swz2 : Statement .swz2 := by decide
theorem mrg2 : Statement .mrg2 := by decide
theorem swz1 : Statement .swz1 := by decide
theorem mrg1 : Statement .mrg1 := by decide
theorem ilv : Statement .ilv := by decide
theorem store : Statement .store := by decide

end Sys2Proof.Laws.EncodedFieldsLegal
end

