-- ==== Sys2Proof/Laws/Step.lean ====
section
/-! SUPPORT. What a micro-operation, a move of the host and a step can do, each said once. -/

namespace Sys2Proof.Machine

/-- A micro-operation always answers a next state, writes one of three register groups, and leaves the
sequencer and the host's side alone. -/
theorem exec_cases (i : Instr) (s : State) :
    (∃ a0 a1, exec i s = .next (s.withV a0 a1)) ∨ (∃ a0 a1, exec i s = .next (s.withP a0 a1)) ∨
      (i = .store ∧ exec i s = .next (storeVectors s)) := by
  cases i
  case load => exact .inl ⟨_, _, rfl⟩
  case mrg16 => exact .inl ⟨_, _, rfl⟩
  case mrg8 => exact .inl ⟨_, _, rfl⟩
  case mrg4 => exact .inl ⟨_, _, rfl⟩
  case mrg2 => exact .inl ⟨_, _, rfl⟩
  case mrg1 => exact .inl ⟨_, _, rfl⟩
  case store => exact .inr (.inr ⟨rfl, rfl⟩)
  all_goals exact .inr (.inl ⟨_, _, rfl⟩)

/-- What a micro-operation leaves alone. -/
theorem exec_frame (i : Instr) (s t : State) (h : exec i s = .next t) :
    t.busy = s.busy ∧ t.done = s.done ∧ t.step = s.step ∧ t.script = s.script ∧
      t.answer = s.answer ∧ t.freeCount = s.freeCount := by
  rcases exec_cases i s with ⟨_, _, e⟩ | ⟨_, _, e⟩ | ⟨_, e⟩ <;> rw [e] at h <;> cases h <;>
    exact ⟨rfl, rfl, rfl, rfl, rfl, rfl⟩

/-- A transition of the engine that answers a next state: idle, nothing changed; busy, a control word
was fetched, decoded and executed, and the sequencer advanced. -/
theorem engineTransition_cases (s t : State) (h : engineTransition s = .next t) :
    (s.busy = false ∧ t = s) ∨
      (s.busy = true ∧ ∃ cw i u, fetch s = some cw ∧ decode cw = .instr i ∧
        exec i s = .next u ∧ t = advance u) := by
  unfold engineTransition at h
  split at h
  case isFalse hb => cases h; exact .inl ⟨by simpa using hb, rfl⟩
  case isTrue hb =>
    split at h
    case h_1 => cases h
    case h_2 cw hcw =>
      unfold runWord at h
      split at h
      case h_1 => cases h
      case h_2 i hi =>
        split at h
        case h_1 u hu => cases h; exact .inr ⟨hb, cw, i, u, hcw, hi, hu, rfl⟩
        all_goals cases h

/-- A move of the host, reset not asserted, that answers a next state. -/
theorem hostMove_cases (m : HostMove) (s t : State) (h : hostMove m s = .next t) :
    (m = .pass ∧ engineTransition s = .next t) ∨
      (m = .start ∧ s.busy = false ∧ t = s.startSequencer) ∨
      (∃ i w m', m = .writeRow i w ∧ s.busy = false ∧ memWrite s.mat i w = some m' ∧
        t = s.withMat m') ∨
      (∃ i w, m = .readRow i ∧ s.busy = false ∧ memRead s.mat i = some w ∧
        t = s.withAnswer (.row w)) ∨
      (m = .readBusy ∧ t = s.withAnswer (.bit s.busy)) ∨
      (m = .readDone ∧ t = s.withAnswer (.bit s.done)) := by
  cases m with
  | pass => exact .inl ⟨rfl, h⟩
  | start =>
    simp only [hostMove, hostStart] at h
    split at h
    · cases h
    · cases h; exact .inr (.inl ⟨rfl, by simp_all, rfl⟩)
  | writeRow i w =>
    simp only [hostMove, hostWrite] at h
    split at h
    · cases h
    · split at h
      · cases h; exact .inr (.inr (.inl ⟨i, w, _, rfl, by simp_all, by assumption, rfl⟩))
      · cases h
  | readRow i =>
    simp only [hostMove, hostRead] at h
    split at h
    · cases h
    · split at h
      · cases h; exact .inr (.inr (.inr (.inl ⟨i, _, rfl, by simp_all, by assumption, rfl⟩)))
      · cases h
  | readBusy => cases h; exact .inr (.inr (.inr (.inr (.inl ⟨rfl, rfl⟩))))
  | readDone => cases h; exact .inr (.inr (.inr (.inr (.inr ⟨rfl, rfl⟩))))

/-- A step that answers a next state: the engine moved because the host has nothing placed, or the
first tick was taken, with reset or with a move of the host. -/
theorem step_cases (s t : State) (h : step s = .next t) :
    (s.script = [] ∧ engineTransition s = .next t) ∨
      (∃ k rest, s.script = k :: rest ∧ k.reset = true ∧ t = resetEngine (s.withScript rest)) ∨
      (∃ k rest, s.script = k :: rest ∧ k.reset = false ∧
        hostMove k.move (s.withScript rest) = .next t) := by
  unfold step transition at h
  split at h
  case h_1 hs => exact .inl ⟨hs, h⟩
  case h_2 k rest hs =>
    unfold runTick at h
    split at h
    case isTrue hk => cases h; exact .inr (.inl ⟨k, rest, hs, hk, rfl⟩)
    case isFalse hk => exact .inr (.inr ⟨k, rest, hs, by simpa using hk, h⟩)

end Sys2Proof.Machine
end

