-- ==== Sys2Proof/Tests/Slice0.lean ====
section
/-! SUPPORT. The model's own tests: what is ill-formed is refused, every control word of 30_encoding R53
written out bit by bit decodes, one step of every micro-operation on the vectors of 95_test_vectors (their
number stands in each comment), the refused host moves, and for every obligation with hypotheses a state
and operands that meet them. Every expected value is the spec's. -/

namespace Sys2Proof.Tests

open Sys2Proof Sys2Proof.Machine

/-! ### Helpers -/

/-- The step went on, and `p` holds of the next state. -/
def goesTo (o : Host.Outcome State Fault Refusal) (p : State → Bool) : Bool :=
  match o with
  | .next t => p t
  | .fault _ => false
  | .refused _ => false

/-- The step was refused with the reason `r`. -/
def isRefused (o : Host.Outcome State Fault Refusal) (r : Refusal) : Bool :=
  match o with
  | .next _ => false
  | .fault _ => false
  | .refused x => x == r

/-- A vector with one lane set. -/
def oneLane (l : Fin 16) (w : Word) : Lanes := (Vector.replicate 16 0).set l w

/-- Lane `l` holds the number `n + l`. -/
def countingFrom (n : Nat) : Lanes := Vector.ofFn fun l => BitVec.ofNat 32 (n + l.val)

/-- Tag vector T of 95_test_vectors section 4: each lane of `V0`, `V1` holds its position number. -/
def tagged : State := { State.reset with v0 := countingFrom 0, v1 := countingFrom 16 }

/-- Lane 0 of `P0`, `P1` holds row MG1, lane 1 row MG6 and lane 15 row MG9 of 95_test_vectors section 5. -/
def mergeSample : State :=
  { State.reset with
    p0 := ((oneLane 0 0x12345678).set 1 0x80000001).set 15 0xDEADBEEF
    p1 := ((oneLane 0 0x9ABCDEF0).set 1 0x80000001).set 15 0xDEADBEEF }

/-- The engine as reset leaves it but for the buffer, with the given host moves to come. -/
def idleWith (ticks : List Tick) : State :=
  { State.reset with mat := [(5, 8)], script := ticks }

/-- A busy engine about to run step `n`, the host silent. -/
def busyAt (n : BitVec 4) : State :=
  { State.reset with mat := [(5, 8)], p0 := oneLane 3 0x20, busy := true, step := n }

/-- A busy engine with the given host moves to come. -/
def busyWith (ticks : List Tick) : State := { busyAt 3 with script := ticks }

/-- A tick without reset. -/
def tickOf (m : HostMove) : Tick := { reset := false, move := m }

/-- Row `n` holds the number `n`. -/
def countingRows : Rows := fun n => BitVec.ofNat 32 n

/-! ### What is ill-formed is refused -/

theorem test_wf_op_zero : ControlFields.wf { op := 0, k := 16 } = false := by decide
theorem test_wf_op_six : ControlFields.wf { op := 6, k := 0 } = false := by decide
theorem test_wf_op_seven : ControlFields.wf { op := 7, k := 1 } = false := by decide
theorem test_wf_load_with_k : ControlFields.wf { op := 1, k := 1 } = false := by decide
theorem test_wf_ilv_with_k : ControlFields.wf { op := 4, k := 16 } = false := by decide
theorem test_wf_store_with_k : ControlFields.wf { op := 5, k := 2 } = false := by decide
theorem test_wf_swz_bad_block :
    ControlFields.wf { op := 2, k := 3 } = false ∧ ControlFields.wf { op := 2, k := 0 } = false := by
  decide
theorem test_wf_mrg_bad_block :
    ControlFields.wf { op := 3, k := 24 } = false ∧ ControlFields.wf { op := 3, k := 0 } = false := by
  decide
theorem test_block_field : legalBlockField 5 = false ∧ legalBlockField 8 = true := by decide

/-- A pair of index arrays that names position 0 twice and position 1 never. -/
theorem test_index_pair_duplicate :
    indexPairWf ((swzP0 .k16).set 1 0) (swzP1 .k16) = false := by decide

/-- X5: no row index above 31. -/
theorem test_row_index : rowIndexWf 32 = false ∧ rowIndexWf 31 = true := by decide

/-- The canonical form refuses a row out of order, a row above 31 and a listed zero. -/
theorem test_memory_wf :
    Memory.wf [(5, 8), (3, 1)] = false ∧ Memory.wf [(32, 1)] = false ∧ Memory.wf [(3, 0)] = false ∧
      Memory.wf [(3, 1), (5, 8)] = true := by decide

/-! ### Decoding (30_encoding R53, R54): the words as the table's binary column writes them -/

theorem test_decode_load : decode 0b00100000 = .instr .load ∧ decodeTableWord 8 0x20 = some .load := by
  decide
theorem test_decode_swz16 : decode 0b01010000 = .instr .swz16 ∧ decodeTableWord 8 0x50 = some .swz16 := by
  decide
theorem test_decode_swz8 : decode 0b01001000 = .instr .swz8 ∧ decodeTableWord 8 0x48 = some .swz8 := by
  decide
theorem test_decode_swz4 : decode 0b01000100 = .instr .swz4 ∧ decodeTableWord 8 0x44 = some .swz4 := by
  decide
theorem test_decode_swz2 : decode 0b01000010 = .instr .swz2 ∧ decodeTableWord 8 0x42 = some .swz2 := by
  decide
theorem test_decode_swz1 : decode 0b01000001 = .instr .swz1 ∧ decodeTableWord 8 0x41 = some .swz1 := by
  decide
theorem test_decode_mrg16 : decode 0b01110000 = .instr .mrg16 ∧ decodeTableWord 8 0x70 = some .mrg16 := by
  decide
theorem test_decode_mrg8 : decode 0b01101000 = .instr .mrg8 ∧ decodeTableWord 8 0x68 = some .mrg8 := by
  decide
theorem test_decode_mrg4 : decode 0b01100100 = .instr .mrg4 ∧ decodeTableWord 8 0x64 = some .mrg4 := by
  decide
theorem test_decode_mrg2 : decode 0b01100010 = .instr .mrg2 ∧ decodeTableWord 8 0x62 = some .mrg2 := by
  decide
theorem test_decode_mrg1 : decode 0b01100001 = .instr .mrg1 ∧ decodeTableWord 8 0x61 = some .mrg1 := by
  decide
theorem test_decode_ilv : decode 0b10000000 = .instr .ilv ∧ decodeTableWord 8 0x80 = some .ilv := by
  decide
theorem test_decode_store : decode 0b10100000 = .instr .store ∧ decodeTableWord 8 0xA0 = some .store := by
  decide

/-- X4: the reserved words of 95_test_vectors section 8, each with its reason. -/
theorem test_decode_reserved :
    [(0x00 : ControlWord), 0x21, 0x40, 0x51, 0x58, 0x60, 0x81, 0xA1, 0xC0, 0xFF].map decode =
      [.reserved (.opField 0), .reserved (.kNotZero 1 1), .reserved (.kNotBlockSize 2 0),
        .reserved (.kNotBlockSize 2 17), .reserved (.kNotBlockSize 2 24),
        .reserved (.kNotBlockSize 3 0), .reserved (.kNotZero 4 1), .reserved (.kNotZero 5 1),
        .reserved (.opField 6), .reserved (.opField 7)] := by decide

/-- Only rows of 8 bits are control words. -/
theorem test_table_word_width : decodeTableWord 16 0x20 = none ∧ decodeTableWord 8 0x120 = none := by
  decide

/-- 30_encoding R58: a comment, blanks and a word that is no mnemonic. -/
theorem test_assembly_text :
    assemble [[' ', 'L', 'O', 'A', 'D', ' ', '-', '-', 'x'], [], ['S', 'T', 'A', 'G', 'E', ' ', '4']] =
        some [.load, .swz4, .mrg4] ∧
      assemble [['N', 'O', 'P']] = none := by decide

/-! ### One step of every micro-operation -/

/-- LS2. -/
theorem test_load_rows :
    goesTo (exec .load { State.reset with mat := [(5, 0x00000008), (21, 0xDEADBEEF)] })
      (fun t => t.v0 == oneLane 5 0x00000008 && t.v1 == oneLane 5 0xDEADBEEF) = true := by
  decide

/-- LS3: the boundary between the halves. -/
theorem test_load_boundary :
    goesTo (exec .load { State.reset with mat := [(15, 0xFFFFFFFF), (16, 0x80000001)] })
      (fun t => t.v0 == oneLane 15 0xFFFFFFFF && t.v1 == oneLane 0 0x80000001) = true := by
  decide

/-- LS5: the old content is gone. -/
theorem test_store_rows :
    goesTo (exec .store { State.reset with mat := [(5, 8)], p0 := oneLane 3 0x00000020 })
      (fun t => t.mat == [(3, 0x00000020)]) = true := by decide

/-- LS4, run as step 12: row 16 from lane 0 of `P1`, and the run is complete. -/
theorem test_store_last_step :
    goesTo (step { busyAt 12 with p0 := countingFrom 0x2000, p1 := countingFrom 0x2010 })
      (fun t => t.mat.lookup 16 == 0x2010 && t.mat.lookup 31 == 0x201F && !t.busy && t.done &&
        t.step == 0) = true := by decide

/-- SW1. -/
theorem test_swz16_tags :
    goesTo (exec .swz16 tagged) (fun t =>
      t.p0 == #v[0, 1, 2, 3, 4, 5, 6, 7, 8, 9, 10, 11, 12, 13, 14, 15] &&
      t.p1 == #v[16, 17, 18, 19, 20, 21, 22, 23, 24, 25, 26, 27, 28, 29, 30, 31] &&
      t.v0 == tagged.v0 && t.v1 == tagged.v1) = true := by decide

/-- SW2. -/
theorem test_swz8_tags :
    goesTo (exec .swz8 tagged) (fun t =>
      t.p0 == #v[0, 1, 2, 3, 4, 5, 6, 7, 16, 17, 18, 19, 20, 21, 22, 23] &&
      t.p1 == #v[8, 9, 10, 11, 12, 13, 14, 15, 24, 25, 26, 27, 28, 29, 30, 31] &&
      t.v0 == tagged.v0 && t.v1 == tagged.v1) = true := by decide

/-- SW3. -/
theorem test_swz4_tags :
    goesTo (exec .swz4 tagged) (fun t =>
      t.p0 == #v[0, 1, 2, 3, 16, 17, 18, 19, 8, 9, 10, 11, 24, 25, 26, 27] &&
      t.p1 == #v[4, 5, 6, 7, 20, 21, 22, 23, 12, 13, 14, 15, 28, 29, 30, 31] &&
      t.v0 == tagged.v0 && t.v1 == tagged.v1) = true := by decide

/-- SW4. -/
theorem test_swz2_tags :
    goesTo (exec .swz2 tagged) (fun t =>
      t.p0 == #v[0, 1, 16, 17, 4, 5, 20, 21, 8, 9, 24, 25, 12, 13, 28, 29] &&
      t.p1 == #v[2, 3, 18, 19, 6, 7, 22, 23, 10, 11, 26, 27, 14, 15, 30, 31] &&
      t.v0 == tagged.v0 && t.v1 == tagged.v1) = true := by decide

/-- SW5. -/
theorem test_swz1_tags :
    goesTo (exec .swz1 tagged) (fun t =>
      t.p0 == #v[0, 16, 2, 18, 4, 20, 6, 22, 8, 24, 10, 26, 12, 28, 14, 30] &&
      t.p1 == #v[1, 17, 3, 19, 5, 21, 7, 23, 9, 25, 11, 27, 13, 29, 15, 31] &&
      t.v0 == tagged.v0 && t.v1 == tagged.v1) = true := by decide

/-- SW6. -/
theorem test_ilv_tags :
    goesTo (exec .ilv tagged) (fun t =>
      t.p0 == #v[0, 16, 1, 17, 2, 18, 3, 19, 4, 20, 5, 21, 6, 22, 7, 23] &&
      t.p1 == #v[8, 24, 9, 25, 10, 26, 11, 27, 12, 28, 13, 29, 14, 30, 15, 31] &&
      t.v0 == tagged.v0 && t.v1 == tagged.v1) = true := by decide

/-- SW8: position 8 is entry 0 of `SWZ_P1[8]`. -/
theorem test_swz8_position_eight :
    goesTo (exec .swz8 { State.reset with v0 := oneLane 8 0xDEADBEEF })
      (fun t => t.p1 == oneLane 0 0xDEADBEEF && t.p0 == State.reset.p0) = true := by decide

/-- SW10: position 31 stays last. -/
theorem test_swz1_last_position :
    goesTo (exec .swz1 { State.reset with v1 := oneLane 15 0x00000001 })
      (fun t => t.p1 == oneLane 15 0x00000001 && t.p0 == State.reset.p0) = true := by decide

/-- SW12: the interleave restores ascending order. -/
theorem test_ilv_ascending :
    goesTo (exec .ilv
        { State.reset with
          v0 := Vector.ofFn fun l => BitVec.ofNat 32 (2 * l.val)
          v1 := Vector.ofFn fun l => BitVec.ofNat 32 (2 * l.val + 1) })
      (fun t => t.p0 == countingFrom 0 && t.p1 == countingFrom 16) = true := by decide

/-- MG1, MG6 and MG9, in lanes 0, 1 and 15. -/
theorem test_mrg16_lanes :
    goesTo (exec .mrg16 mergeSample) (fun t =>
      t.v0 == ((oneLane 0 0xDEF05678).set 1 0x00010001).set 15 0xBEEFBEEF &&
      t.v1 == ((oneLane 0 0x9ABC1234).set 1 0x80008000).set 15 0xDEADDEAD) = true := by
  decide

/-- MG1, MG6 and MG9, in lanes 0, 1 and 15. -/
theorem test_mrg8_lanes :
    goesTo (exec .mrg8 mergeSample) (fun t =>
      t.v0 == ((oneLane 0 0xBC34F078).set 1 0x00000101).set 15 0xADADEFEF &&
      t.v1 == ((oneLane 0 0x9A12DE56).set 1 0x80800000).set 15 0xDEDEBEBE) = true := by
  decide

/-- MG1, MG6 and MG9, in lanes 0, 1 and 15. -/
theorem test_mrg4_lanes :
    goesTo (exec .mrg4 mergeSample) (fun t =>
      t.v0 == ((oneLane 0 0xA2C4E608).set 1 0x00000011).set 15 0xEEDDEEFF &&
      t.v1 == ((oneLane 0 0x91B3D5F7).set 1 0x88000000).set 15 0xDDAABBEE) = true := by
  decide

/-- MG1, MG6 and MG9, in lanes 0, 1 and 15. -/
theorem test_mrg2_lanes :
    goesTo (exec .mrg2 mergeSample) (fun t =>
      t.v0 == ((oneLane 0 0x5AF05AF0).set 1 0x00000005).set 15 0x5AA5FAAF &&
      t.v1 == ((oneLane 0 0x888DDDD2).set 1 0xA0000000).set 15 0xFFAFAFFF) = true := by
  decide

/-- MG1, MG6 and MG9, in lanes 0, 1 and 15. -/
theorem test_mrg1_lanes :
    goesTo (exec .mrg1 mergeSample) (fun t =>
      t.v0 == ((oneLane 0 0x303CFCF0).set 1 0x00000003).set 15 0xFC0F3CCF &&
      t.v1 == ((oneLane 0 0x8BB88BB4).set 1 0xC0000000).set 15 0xCFFCFFFF) = true := by
  decide

/-- MG7, for `k = 2`: bit 3 is mask-selected, so it leaves `P0` for bit 1 of `V1`. -/
theorem test_mrg2_one_bit :
    goesTo (exec .mrg2 { State.reset with p0 := oneLane 4 0x00000008 })
      (fun t => t.v0 == State.reset.v0 && t.v1 == oneLane 4 0x00000002) = true := by decide

/-- The logical shifts of 95_test_vectors section 5: zero fill, bits shifted out are lost. -/
theorem test_logical_shifts :
    (0x80000000 : Word) >>> 1 = 0x40000000 ∧ (0x80000001 : Word) <<< 1 = 0x00000002 ∧
      (0xFFFFFFFF : Word) >>> 16 = 0x0000FFFF := by decide

/-! ### The sequencer and the fetch -/

/-- The first step after reset, for a word placed where the engine fetches: `LOAD`, then `step = 1`. -/
theorem test_fetch_word_load :
    goesTo (step (State.reset.withFetchWord 8 0x20)) (fun t => t.busy && t.step == 1) = true := by
  decide

/-- The same for `STORE`: the run is complete. -/
theorem test_fetch_word_store :
    goesTo (step (State.reset.withFetchWord 8 0xA0)) (fun t => !t.busy && t.done && t.step == 0) =
      true := by decide

/-- A reserved word has no place in `SEQ_ROM`. -/
theorem test_fetch_word_reserved :
    isRefused (step (State.reset.withFetchWord 8 0x51)) (.noSuchStep 15) = true := by decide

/-- P1, step 5: `SWZ4` at step 5 takes the entry of `V0[5]` to `P1[1]`, and `step` becomes 6. -/
theorem test_step_five :
    goesTo (step { busyAt 5 with v0 := oneLane 5 0x00000008 })
      (fun t => t.p1 == oneLane 1 0x00000008 && t.step == 6 && t.busy) = true := by decide

/-- The idle engine takes no step of its own (10_state R17). -/
theorem test_idle_engine : goesTo (step (idleWith [])) (fun t => t == idleWith []) = true := by
  decide

/-! ### The host's moves -/

/-- X1: start while busy is refused, start while idle is not. -/
theorem test_start_while_busy :
    isRefused (step (busyWith [tickOf .start])) .startWhileBusy = true ∧
      goesTo (step (idleWith [tickOf .start])) (fun t => t.busy && !t.done && t.step == 0) = true := by
  decide

/-- X2: a host write of row 0 while busy. -/
theorem test_write_while_busy :
    isRefused (step (busyWith [tickOf (.writeRow 0 7)])) .rowWriteWhileBusy = true ∧
      goesTo (step (idleWith [tickOf (.writeRow 0 7)])) (fun t => t.mat == [(0, 7), (5, 8)]) =
        true := by decide

/-- X3: a host read of row 0 while busy. -/
theorem test_read_while_busy :
    isRefused (step (busyWith [tickOf (.readRow 0)])) .rowReadWhileBusy = true ∧
      goesTo (step (idleWith [tickOf (.readRow 5)])) (fun t => t.answer == some (.row 8)) = true := by
  decide

/-- X5: a row index above 31. -/
theorem test_no_such_row :
    isRefused (step (idleWith [tickOf (.writeRow 32 7)])) (.noSuchRow 32) = true ∧
      isRefused (step (idleWith [tickOf (.readRow 32)])) (.noSuchRow 32) = true := by decide

/-- Status reads are allowed while busy (20_memory R42). -/
theorem test_status_while_busy :
    goesTo (step (busyWith [tickOf .readBusy])) (fun t => t.answer == some (.bit true)) = true ∧
      goesTo (step (busyWith [tickOf .readDone])) (fun t => t.answer == some (.bit false)) = true := by
  decide

/-- P6: reset during a run leaves the operand, and wins over a start issued together with it
(70_reset R113, R115). -/
theorem test_reset_wins :
    goesTo (step (busyWith [{ reset := true, move := .start }]))
      (fun t => !t.busy && !t.done && t.step == 0 && t.mat == [(5, 8)]) = true := by decide

/-! ### Hypotheses that can be met, obligation by obligation -/

theorem test_witness_OpcodeMapDecodesBothWays : decode 0xA0 = .instr .store := by decide

theorem test_witness_AssemblyLinesStandForInstructions :
    assembleLine (mnemonic .ilv ++ ' ' :: '-' :: '-' :: ['a']) = some [.ilv] := by decide

theorem test_witness_StageMasksFollowTheirFormula :
    (0 < 32 ∧ (maskRom .k1).getLsbD 0 = false) ∧ 31 < 32 ∧ (maskRom .k16).getLsbD 31 = true := by
  decide

theorem test_witness_MaskLaws :
    (0 < 32 ∧ (maskRom .k4).getLsbD 0 = false) ∧ 31 < 32 ∧ (maskRom .k4).getLsbD 31 = true := by
  decide

/-- The clause on other addresses, at the first address that is no row. -/
theorem test_witness_StoreWritesEveryRowFromTheVectors :
    (∀ d l, 32 ≠ effectiveRow d l) ∧ (busyAt 12).script = [] ∧ (busyAt 12).busy = true ∧
      (busyAt 12).step = 12 ∧ goesTo (exec .store (busyAt 12)) (fun _ => true) = true := by
  decide

/-- The tagged state holds row `p` at position `p`. -/
theorem test_witness_Swz16CopiesLaneForLane :
    ∀ l : Fin 16, tagged.v0[l] = countingRows l.val ∧ tagged.v1[l] = countingRows (16 + l.val) := by
  decide

/-- A state whose working vectors hold the row map before stage `k`. -/
def beforeStage (k : BlockSize) : State :=
  { State.reset with
    v0 := Vector.ofFn fun l => countingRows (rowMapBefore k 0 l.val)
    v1 := Vector.ofFn fun l => countingRows (rowMapBefore k 1 l.val) }

theorem test_witness_Swz8ExchangesBlocksOfEightLanes :
    ∀ l : Fin 16, (beforeStage .k8).v0[l] = countingRows (rowMapBefore .k8 0 l.val) ∧
      (beforeStage .k8).v1[l] = countingRows (rowMapBefore .k8 1 l.val) := by decide

theorem test_witness_Swz4ExchangesBlocksOfFourLanes :
    ∀ l : Fin 16, (beforeStage .k4).v0[l] = countingRows (rowMapBefore .k4 0 l.val) ∧
      (beforeStage .k4).v1[l] = countingRows (rowMapBefore .k4 1 l.val) := by decide

theorem test_witness_Swz2ExchangesPairsOfLanes :
    ∀ l : Fin 16, (beforeStage .k2).v0[l] = countingRows (rowMapBefore .k2 0 l.val) ∧
      (beforeStage .k2).v1[l] = countingRows (rowMapBefore .k2 1 l.val) := by decide

theorem test_witness_Swz1InterleavesEvenAndOddLanes :
    ∀ l : Fin 16, (beforeStage .k1).v0[l] = countingRows (rowMapBefore .k1 0 l.val) ∧
      (beforeStage .k1).v1[l] = countingRows (rowMapBefore .k1 1 l.val) := by decide

/-- A state that holds the even and the odd rows, in the working or in the prepared vectors. -/
def evenOdd : State :=
  { State.reset with
    v0 := Vector.ofFn fun l => countingRows (2 * l.val)
    v1 := Vector.ofFn fun l => countingRows (2 * l.val + 1)
    p0 := Vector.ofFn fun l => countingRows (2 * l.val)
    p1 := Vector.ofFn fun l => countingRows (2 * l.val + 1) }

theorem test_witness_IlvRestoresAscendingOrder :
    ∀ l : Fin 16, evenOdd.v0[l] = countingRows (2 * l.val) ∧
      evenOdd.v1[l] = countingRows (2 * l.val + 1) := by decide

/-- A state whose prepared vectors hold the rows `k` apart. -/
def afterSwizzle (k : BlockSize) : State :=
  { State.reset with
    p0 := Vector.ofFn fun l => countingRows (rowMap k 0 l.val)
    p1 := Vector.ofFn fun l => countingRows (rowMap k 0 l.val + blockSize k) }

theorem test_witness_Mrg16ExchangesHalfwords :
    ∀ l : Fin 16, (afterSwizzle .k16).p0[l] = countingRows l.val ∧
      (afterSwizzle .k16).p1[l] = countingRows (16 + l.val) := by decide

theorem test_witness_Mrg8ExchangesBytes :
    ∀ l : Fin 16, (afterSwizzle .k8).p0[l] = countingRows (rowMap .k8 0 l.val) ∧
      (afterSwizzle .k8).p1[l] = countingRows (rowMap .k8 0 l.val + 8) := by decide

theorem test_witness_Mrg4ExchangesNibbles :
    ∀ l : Fin 16, (afterSwizzle .k4).p0[l] = countingRows (rowMap .k4 0 l.val) ∧
      (afterSwizzle .k4).p1[l] = countingRows (rowMap .k4 0 l.val + 4) := by decide

theorem test_witness_Mrg2ExchangesBitPairs :
    ∀ l : Fin 16, (afterSwizzle .k2).p0[l] = countingRows (rowMap .k2 0 l.val) ∧
      (afterSwizzle .k2).p1[l] = countingRows (rowMap .k2 0 l.val + 2) := by decide

theorem test_witness_Mrg1ExchangesSingleBits :
    ∀ l : Fin 16, evenOdd.p0[l] = countingRows (2 * l.val) ∧
      evenOdd.p1[l] = countingRows (2 * l.val + 1) := by decide

theorem test_witness_PermutationsKeepEveryWord :
    (∃ k, Instr.swz8 = swzOf k ∧ swzP0 .k8 = swzP0 k ∧ swzP1 .k8 = swzP1 k) ∧
      Instr.ilv = .ilv ∧ ilvP0 = ilvP0 ∧ ilvP1 = ilvP1 :=
  ⟨⟨.k8, rfl, rfl, rfl⟩, rfl, rfl, rfl⟩

/-- Columns 31 and 0 under both clauses of the bit form. -/
theorem test_witness_MergeIsTheScalarBlockSwapPerLane :
    (31 < 32 ∧ Nat.testBit 31 (blockLog2 .k16) = true) ∧
      0 < 32 ∧ Nat.testBit 0 (blockLog2 .k16) = false := by decide

/-- Lanes from the last to the first. -/
theorem test_witness_LaneOrderIsNotObservable :
    (∀ l, l ∈ (List.finRange 16).reverse) ∧ (idleWith []).mat.wf = true := by decide

theorem test_witness_RowReadAfterWrite :
    Memory.wf [(5, 8)] = true ∧ (0 < 32 ∧ 31 < 32) ∧ 32 ≤ 32 := by decide

/-- The move is the next one; busy or idle; row 31 is in range and row 32 is not. -/
theorem test_witness_HostRowAccessWhenIdle :
    ((idleWith [tickOf (.writeRow 31 7)]).mat.wf = true ∧
        (idleWith [tickOf (.writeRow 31 7)]).script = [tickOf (.writeRow 31 7)] ∧
        (idleWith [tickOf (.writeRow 31 7)]).busy = false ∧ 31 < 32) ∧
      ((idleWith [tickOf (.writeRow 32 7)]).script = [tickOf (.writeRow 32 7)] ∧
        (idleWith [tickOf (.writeRow 32 7)]).busy = false ∧ 32 ≤ 32) ∧
      ((busyWith [tickOf (.writeRow 31 7)]).script = [tickOf (.writeRow 31 7)] ∧
        (busyWith [tickOf (.writeRow 31 7)]).mat.wf = true ∧
        (busyWith [tickOf (.writeRow 31 7)]).busy = true) ∧
      ((idleWith [tickOf (.readRow 31)]).script = [tickOf (.readRow 31)] ∧
        (idleWith [tickOf (.readRow 31)]).busy = false) ∧
      ((idleWith [tickOf (.readRow 32)]).script = [tickOf (.readRow 32)] ∧
        (idleWith [tickOf (.readRow 32)]).busy = false) ∧
      (busyWith [tickOf (.readRow 0)]).script = [tickOf (.readRow 0)] ∧
        (busyWith [tickOf (.readRow 0)]).busy = true := by decide

theorem test_witness_StatusReadsAreAlwaysAllowed :
    (busyWith [tickOf .readBusy]).script = [tickOf .readBusy] ∧
      (idleWith [tickOf .readDone]).script = [tickOf .readDone] := by decide

theorem test_witness_StartCommandNeedsAnIdleEngine :
    ((idleWith startOnly).script = startOnly ∧ (idleWith startOnly).busy = false) ∧
      (busyWith startOnly).script = startOnly ∧ (busyWith startOnly).busy = true := by decide

/-- The idle engine with either silence; the busy engine at its first and at its last step. -/
theorem test_witness_StepRunsTheDecodedInstruction :
    ((idleWith []).script = [] ∧ (idleWith []).busy = false) ∧
      ((idleWith [silentTick]).script = [silentTick] ∧ (idleWith [silentTick]).busy = false) ∧
      ((busyAt 0).script = [] ∧ (busyAt 0).busy = true ∧ seqRom[(busyAt 0).step.toNat]? = some 0x20 ∧
        decode 0x20 = .instr .load ∧ goesTo (exec .load (busyAt 0)) (fun _ => true) = true) ∧
      (busyAt 12).step.toNat ≤ 12 ∧ seqRom[(busyAt 12).step.toNat]? = some 0xA0 ∧
        decode 0xA0 = .instr .store ∧ goesTo (exec .store (busyAt 12)) (fun _ => true) = true := by
  decide

theorem test_witness_UnreachableFormsAreRefused :
    ((busyAt 13).script = [] ∧ (busyAt 13).busy = true ∧ 13 ≤ (busyAt 13).step.toNat) ∧
      13 ≤ (busyAt 15).step.toNat ∧ (fieldsOf 0x00).wf = false ∧ (fieldsOf 0x51).wf = false := by
  decide

theorem test_witness_ResetWinsOverEverything :
    (busyWith [{ reset := true, move := .writeRow 0 7 }, silentTick]).script =
      [{ reset := true, move := .writeRow 0 7 }, silentTick] := by decide

/-- A step that goes on from a legal state, busy and idle. -/
theorem test_witness_EveryStepKeepsTheStateLegal :
    ((busyAt 12).legal = true ∧ goesTo (step (busyAt 12)) (fun _ => true) = true) ∧
      (idleWith startOnly).legal = true ∧
      goesTo (step (idleWith startOnly)) (fun _ => true) = true := by decide

/-- Legal states whose host keeps the rules, and one whose host does not. -/
theorem test_witness_OnlyHostMisuseStopsTheMachine :
    ((busyAt 3).legal = true ∧ (busyAt 3).hostKeepsRules = true) ∧
      (busyWith startOnly).legal = true ∧ (busyWith startOnly).hostKeepsRules = false := by
  decide

/-- Both ways a row can change: `STORE`, with either silence, and the host's write. -/
theorem test_witness_RowsChangeOnlyByStoreOrHostWrite :
    goesTo (step (busyAt 12)) (fun t => memRead t.mat 5 != memRead (busyAt 12).mat 5) = true ∧
      goesTo (step { busyAt 12 with script := [silentTick] })
        (fun t => memRead t.mat 5 != memRead (busyAt 12).mat 5) = true ∧
      goesTo (step (idleWith [tickOf (.writeRow 31 7)]))
        (fun t => memRead t.mat 31 != memRead (idleWith []).mat 31) = true := by decide

/-- Two states with the same sequencer and the same moves to come, and other data. -/
theorem test_witness_ControlDoesNotDependOnData :
    ((busyAt 3).busy = tagged.startSequencer.busy ∧ (busyAt 0).step = tagged.startSequencer.step ∧
        (busyAt 0).done = tagged.startSequencer.done ∧
        (busyAt 0).script = tagged.startSequencer.script ∧
        (busyAt 0).v0 ≠ tagged.startSequencer.v0) ∧
      goesTo (step (busyAt 0)) (fun _ => true) = true ∧
      goesTo (step tagged.startSequencer) (fun _ => true) = true := by decide

/-- Two engines, one busy and one about to be started, stepped in two orders. -/
theorem test_witness_EnginesDoNotInterfere :
    ([busyAt 3, idleWith startOnly] : Engines)[1]? = some (idleWith startOnly) ∧
      goesTo (step (idleWith startOnly)) (fun _ => true) = true ∧ [0, 1].Perm [1, 0] ∧
      (match runEngines [0, 1] [busyAt 3, idleWith startOnly] with
        | .next _ => true
        | .fault _ => false
        | .refused _ => false) = true := by decide

theorem test_witness_ScalarStageExchangesOneIndexBit :
    (0 < 32 ∧ 31 < 32) ∧
      (scalarStage .k16 countingRows 16).getLsbD 0 = (countingRows 16).getLsbD 16 := by decide

theorem test_witness_ScalarStagesCommute :
    [BlockSize.k1, .k2, .k4, .k8, .k16].Perm stageOrder ∧ 31 < 32 := by decide

theorem test_witness_StageAppliesTheScalarStage :
    ∀ l : Fin 16, (beforeStage .k4).v0[l] = countingRows (rowMapBefore .k4 0 l.val) ∧
      (beforeStage .k4).v1[l] = countingRows (rowMapBefore .k4 1 l.val) := by decide

theorem test_witness_EveryRunTakesThirteenSteps :
    (idleWith startOnly).busy = false ∧ (idleWith startOnly).script = startOnly ∧
      (0 ≤ 12 ∧ 12 ≤ 12) ∧ 14 ≤ 14 := by decide

theorem test_witness_RegistersFollowTheScalarAlgorithm :
    (idleWith startOnly).busy = false ∧ (idleWith startOnly).script = startOnly ∧
      stageOrder[0]? = some .k16 ∧ stageOrder[4]? = some .k1 ∧ 31 < 32 := by decide

theorem test_witness_TransposeMeetsTheContract :
    (idleWith startOnly).busy = false ∧ (idleWith startOnly).script = startOnly ∧
      (1 ≤ 1 ∧ 13 < 14) ∧ 0 < 32 ∧ 31 < 32 := by decide

/-- A host that writes rows 0 and 31, transposes, reads, asks for both bits, resets and starts over. -/
def hostCalls : List HostCall :=
  [.write 0 3, .write 31 7, .transpose, .readDone, .read 31, .reset, .readBusy, .transpose]

theorem test_witness_StepwiseEngineEqualsOneTransitionEngine :
    (idleWith (hostCalls.flatMap HostCall.ticks)).legal = true ∧
      (idleWith (hostCalls.flatMap HostCall.ticks)).busy = false ∧
      (idleWith (hostCalls.flatMap HostCall.ticks)).script = hostCalls.flatMap HostCall.ticks := by
  decide

/-- 13 silent ticks with a status read before, among and after them. -/
def pollingTicks : List Tick :=
  [tickOf .readBusy] ++ List.replicate 12 silentTick ++ [tickOf .readDone, silentTick, tickOf .readBusy]

theorem test_witness_StatusPollingDoesNotDisturbARun :
    (idleWith (startOnly ++ pollingTicks)).busy = false ∧
      (idleWith (startOnly ++ pollingTicks)).script = startOnly ++ pollingTicks ∧
      (∀ t ∈ pollingTicks, t = silentTick ∨ t = { reset := false, move := .readBusy } ∨
        t = { reset := false, move := .readDone }) ∧
      pollingTicks.count silentTick = 13 := by decide

/-- The same rows, other registers. -/
theorem test_witness_ResultDoesNotDependOnOldRegisters :
    (idleWith startOnly).busy = false ∧
      { idleWith startOnly with v0 := countingFrom 7, done := true }.busy = false ∧
      (idleWith startOnly).script = startOnly ∧
      { idleWith startOnly with v0 := countingFrom 7, done := true }.script = startOnly ∧
      ∀ i, i < 32 → memRead (idleWith startOnly).mat i =
        memRead { idleWith startOnly with v0 := countingFrom 7, done := true }.mat i := by
  decide

/-- Reset with no step done, just before `STORE` takes effect, and just after it. -/
theorem test_witness_ResetDuringARun :
    (∀ n ∈ [0, 12, 13], (idleWith (startOnly ++ List.replicate n silentTick ++ [resetTick])).busy =
        false ∧
      (idleWith (startOnly ++ List.replicate n silentTick ++ [resetTick])).script =
        startOnly ++ List.replicate n silentTick ++ [resetTick]) ∧ 12 ≤ 12 ∧ 13 ≤ 13 := by
  decide

theorem test_witness_TwoRunsRestoreTheMatrix :
    (idleWith (startOnly ++ List.replicate 13 silentTick ++ startOnly)).busy = false ∧
      (idleWith (startOnly ++ List.replicate 13 silentTick ++ startOnly)).script =
        startOnly ++ List.replicate 13 silentTick ++ startOnly ∧
      (idleWith (startOnly ++ List.replicate 13 silentTick ++ startOnly)).mat.wf = true := by
  decide

/-- An engine with the given rows, about to be started. -/
def startedWith (rows : Rows) : State := { idleWith startOnly with mat := Memory.ofRows rows }

/-- The all-zero, the all-ones and the identity matrix (S3). -/
theorem test_witness_FixedPointsAreTheSymmetricMatrices :
    ((startedWith fun _ => 0).busy = false ∧ (startedWith fun _ => 0).script = startOnly) ∧
      (∀ i, i < 32 → (startedWith fun _ => 0).mat.lookup i = 0) ∧
      (∀ i, i < 32 → (startedWith fun _ => 0xFFFFFFFF).mat.lookup i = 0xFFFFFFFF) ∧
      ∀ i, i < 32 → (startedWith fun i => (1 : Word) <<< i).mat.lookup i = (1 : Word) <<< i := by
  decide

/-- S6: rows of S4 and of S5 and their exclusive or; and a micro-operation that goes on. -/
theorem test_witness_EveryStepIsLinearOverXor :
    (goesTo (exec .mrg4 tagged) (fun _ => true) = true ∧
        goesTo (exec .mrg4 mergeSample) (fun _ => true) = true) ∧
      (startedWith fun i => if i = 5 then 8 else 0).script = startOnly ∧
      ∀ i, i < 32 → (startedWith fun i => if i = 0 then 3 else if i = 5 then 8 else 0).mat.lookup i =
        (startedWith fun i => if i = 5 then 8 else 0).mat.lookup i ^^^
          (startedWith fun i => if i = 0 then 3 else 0).mat.lookup i := by decide

/-- T1 (row 0, column 31), and S5. -/
theorem test_witness_SingleEntryMovesAcrossTheDiagonal :
    (startedWith fun i => if i = 0 then (1 : Word) <<< 31 else 0).busy = false ∧
      (∀ i, i < 32 → (startedWith fun i => if i = 0 then (1 : Word) <<< 31 else 0).mat.lookup i =
        if i = 0 then (1 : Word) <<< 31 else 0) ∧
      ∀ i, i < 32 → (startedWith fun i => if i = 0 then 0b11 else 0).mat.lookup i =
        if i = 0 then 0b11 else 0 := by decide

theorem test_witness_NumberOfOnesIsPreserved :
    (idleWith startOnly).busy = false ∧ (idleWith startOnly).script = startOnly ∧
      onesOfMatrix (idleWith startOnly).mat = 1 := by decide

theorem test_witness_AnyPairedFamilyTransposes :
    familyFits romFamily (ilvP0, ilvP1) = true ∧ 31 < 32 ∧ (idleWith startOnly).busy = false ∧
      (idleWith startOnly).script = startOnly := by decide

/-- A family that misses the pairing requirement: stage 8 with the identity. -/
theorem test_family_unpaired :
    familyFits (fun k => if k = .k8 then romFamily .k16 else romFamily k) (ilvP0, ilvP1) = false := by
  decide

end Sys2Proof.Tests
end

section
/-! The state of 10_state: the mask table (R21) and the start command (R18). -/

namespace Sys2Proof.Machine

/-! ### `MASK_ROM` -/

/-- A block size is the power of two that its `log2` names (30_encoding R49). -/
theorem blockSize_eq_two_pow (k : BlockSize) : blockSize k = 2 ^ blockLog2 k := by
  cases k <;> rfl

/-- R21's formula read bit by bit: the mask of stage `k` selects the columns `b` in which bit
`log2(k)` of the number `b` is set. -/
theorem maskRom_getLsbD (k : BlockSize) (b : Nat) (hb : b < 32) :
    (maskRom k).getLsbD b = b.testBit (blockLog2 k) := by
  cases k <;> decide +revert

/-- Bit `log2(k)` of a number tells whether its block of size `k` has an odd number. -/
theorem testBit_blockLog2_iff (k : BlockSize) (b : Nat) :
    b.testBit (blockLog2 k) = true ↔ b / blockSize k % 2 = 1 := by
  rw [blockSize_eq_two_pow, Nat.testBit_eq_decide_div_mod_eq, decide_eq_true_iff]

/-- Settles O6: the ten literals are the table's own, and the formula with the quotient is the formula
with the bit number, since every block size is a power of two. -/
theorem stageMasksFollowTheirFormula : Obligations.StageMasksFollowTheirFormula := by
  refine ⟨rfl, rfl, fun k b hb => ?_⟩
  have hbit := maskRom_getLsbD k b hb
  exact ⟨hbit ▸ testBit_blockLog2_iff k b, hbit⟩

/-! ### The start command -/

/-- A tick without reset hands the step to its move, with the tick taken off the script. -/
theorem step_of_hostMove (s : State) (m : HostMove) (rest : List Tick)
    (hs : s.script = { reset := false, move := m } :: rest) :
    step s = hostMove m (s.withScript rest) := by
  simp [step, transition, hs, runTick]

/-- The start command's precondition holds: the idle engine takes it (10_state R18). -/
theorem hostStart_of_idle (s : State) (hb : s.busy = false) :
    hostStart s = .next s.startSequencer := by
  simp [hostStart, hb]

/-- The start command's precondition fails: the busy engine refuses it (70_reset R120). -/
theorem hostStart_of_busy (s : State) (hb : s.busy = true) :
    hostStart s = .refused .startWhileBusy := by
  simp [hostStart, hb]

/-- Settles O31: the step is `hostStart` on the rest of the script, which looks at `busy` alone. -/
theorem startCommandNeedsAnIdleEngine : Obligations.StartCommandNeedsAnIdleEngine := by
  intro s rest hs
  have hstep : step s = hostStart (s.withScript rest) := step_of_hostMove s .start rest hs
  rw [hstep]
  exact ⟨hostStart_of_idle (s.withScript rest), hostStart_of_busy (s.withScript rest)⟩

end Sys2Proof.Machine
end

section
/-! The encoding of 30_encoding: the word layout (R47), the decoder on a field pair (R48, R49), the
opcode map (R53), the reserved words (R54) and the fixed sequence (R55, R59). -/

namespace Sys2Proof.Machine

/-! ### The word layout -/

/-- Two fields laid out as a word and cut apart again are the same two fields. -/
@[simp] theorem fieldsOf_wordOfFields (f : ControlFields) : fieldsOf (wordOfFields f) = f := by
  simp only [fieldsOf, wordOfFields, BitVec.extractLsb'_append_eq_left,
    BitVec.extractLsb'_append_eq_right]

/-- The two fields cover the word: cut apart and laid out again, it is the same word. -/
@[simp] theorem wordOfFields_fieldsOf (cw : ControlWord) : wordOfFields (fieldsOf cw) = cw :=
  BitVec.extractLsb'_append_extractLsb'

@[simp] theorem fieldsOf_encode (i : Instr) : fieldsOf (encode i) = instrFields i :=
  fieldsOf_wordOfFields (instrFields i)

/-- A word encodes a micro-operation exactly where its field pair is the micro-operation's. -/
theorem eq_encode_iff (cw : ControlWord) (i : Instr) :
    cw = encode i ↔ fieldsOf cw = instrFields i := by
  constructor
  · rintro rfl
    exact fieldsOf_encode i
  · intro h
    rw [encode, ← h, wordOfFields_fieldsOf]

/-- A field pair is known from the number in `op` and from `k`. -/
theorem controlFields_eq_mk {f : ControlFields} {op : BitVec 3} {k : BitVec 5}
    (hop : f.op.toNat = op.toNat) (hk : f.k = k) : f = { op := op, k := k } := by
  cases f
  exact congrArg₂ ControlFields.mk (BitVec.eq_of_toNat_eq hop) hk

/-! ### The block size field -/

/-- A `k` field names a block size exactly where it holds that number (R49). -/
theorem blockSizeOf_eq_some_iff (k : BitVec 5) (b : BlockSize) :
    blockSizeOf k = some b ↔ k = BitVec.ofNat 5 (blockSize b) := by
  cases b <;> decide +revert

/-- The fields that name a block size are the legal ones of `SWZ` and `MRG`. -/
theorem blockSizeOf_isSome (k : BitVec 5) : (blockSizeOf k).isSome = legalBlockField k := by
  decide +revert

/-- The word of `SWZk` holds the block size in its `k` field (R49, R53). -/
theorem instrFields_swzOf (b : BlockSize) :
    instrFields (swzOf b) = { op := 2, k := BitVec.ofNat 5 (blockSize b) } := by
  cases b <;> rfl

/-- The word of `MRGk` holds the block size in its `k` field (R49, R53). -/
theorem instrFields_mrgOf (b : BlockSize) :
    instrFields (mrgOf b) = { op := 3, k := BitVec.ofNat 5 (blockSize b) } := by
  cases b <;> rfl

/-! ### The decoder on a field pair -/

theorem decodeStageless_eq_instr_iff (f : ControlFields) (i j : Instr) :
    decodeStageless f i = .instr j ↔ f.k = 0 ∧ i = j := by
  unfold decodeStageless
  split
  next hk => simp [hk]
  next hk => exact ⟨nofun, fun h => absurd h.1 hk⟩

theorem decodeStaged_eq_instr_iff (f : ControlFields) (ofBlock : BlockSize → Instr) (j : Instr) :
    decodeStaged f ofBlock = .instr j ↔ ∃ b, blockSizeOf f.k = some b ∧ ofBlock b = j := by
  cases hb : blockSizeOf f.k <;> simp [decodeStaged, hb]

theorem decodeFields_instrFields (i : Instr) : decodeFields (instrFields i) = .instr i := by
  cases i <;> rfl

/-- A stageless kind decodes the one field pair with its `op` and `k = 0` (R48). -/
theorem eq_instrFields_of_decodeStageless {f : ControlFields} {i j : Instr} {op : BitVec 3}
    (hi : instrFields i = { op := op, k := 0 }) (hop : f.op.toNat = op.toNat)
    (h : decodeStageless f i = .instr j) : f = instrFields j := by
  obtain ⟨hk, rfl⟩ := (decodeStageless_eq_instr_iff f i j).mp h
  exact hi ▸ controlFields_eq_mk hop hk

/-- A staged kind decodes the field pairs with its `op` and a block size in `k` (R48, R49). -/
theorem eq_instrFields_of_decodeStaged {f : ControlFields} {ofBlock : BlockSize → Instr} {j : Instr}
    {op : BitVec 3}
    (hof : ∀ b, instrFields (ofBlock b) = { op := op, k := BitVec.ofNat 5 (blockSize b) })
    (hop : f.op.toNat = op.toNat) (h : decodeStaged f ofBlock = .instr j) : f = instrFields j := by
  obtain ⟨b, hb, rfl⟩ := (decodeStaged_eq_instr_iff f ofBlock j).mp h
  exact hof b ▸ controlFields_eq_mk hop ((blockSizeOf_eq_some_iff f.k b).mp hb)

/-- A field pair that decodes to a micro-operation is that micro-operation's row of the table, kind by
kind. -/
theorem eq_instrFields_of_decodeFields {f : ControlFields} {i : Instr}
    (h : decodeFields f = .instr i) : f = instrFields i := by
  unfold decodeFields at h
  split at h
  next hop => exact eq_instrFields_of_decodeStageless (i := .load) rfl hop h
  next hop => exact eq_instrFields_of_decodeStaged instrFields_swzOf hop h
  next hop => exact eq_instrFields_of_decodeStaged instrFields_mrgOf hop h
  next hop => exact eq_instrFields_of_decodeStageless (i := .ilv) rfl hop h
  next hop => exact eq_instrFields_of_decodeStageless (i := .store) rfl hop h
  next => cases h

theorem op_cases (op : BitVec 3) :
    op = 0 ∨ op = 1 ∨ op = 2 ∨ op = 3 ∨ op = 4 ∨ op = 5 ∨ op = 6 ∨ op = 7 := by
  decide +revert

theorem exists_decodeStageless_eq_instr_iff (f : ControlFields) (i : Instr) :
    (∃ j, decodeStageless f i = .instr j) ↔ (f.k == 0) = true := by
  simp only [decodeStageless_eq_instr_iff, exists_and_left, exists_eq', and_true, beq_iff_eq]

theorem exists_decodeStaged_eq_instr_iff (f : ControlFields) (ofBlock : BlockSize → Instr) :
    (∃ j, decodeStaged f ofBlock = .instr j) ↔ legalBlockField f.k = true := by
  rw [← blockSizeOf_isSome, Option.isSome_iff_exists]
  constructor
  · rintro ⟨j, hj⟩
    obtain ⟨b, hb, -⟩ := (decodeStaged_eq_instr_iff f ofBlock j).mp hj
    exact ⟨b, hb⟩
  · rintro ⟨b, hb⟩
    exact ⟨ofBlock b, (decodeStaged_eq_instr_iff f ofBlock _).mpr ⟨b, hb, rfl⟩⟩

/-- The decoder gives a field pair a meaning exactly where the pair is well formed, kind by kind. -/
theorem exists_decodeFields_eq_instr_iff (f : ControlFields) :
    (∃ i, decodeFields f = .instr i) ↔ f.wf = true := by
  have hreserved (r : Reserved) : (∃ i, Decoded.reserved r = .instr i) ↔ false = true :=
    ⟨nofun, nofun⟩
  obtain ⟨op, k⟩ := f
  obtain rfl | rfl | rfl | rfl | rfl | rfl | rfl | rfl := op_cases op
  · exact hreserved (.opField 0)
  · exact exists_decodeStageless_eq_instr_iff { op := 1, k := k } .load
  · exact exists_decodeStaged_eq_instr_iff { op := 2, k := k } swzOf
  · exact exists_decodeStaged_eq_instr_iff { op := 3, k := k } mrgOf
  · exact exists_decodeStageless_eq_instr_iff { op := 4, k := k } .ilv
  · exact exists_decodeStageless_eq_instr_iff { op := 5, k := k } .store
  · exact hreserved (.opField 6)
  · exact hreserved (.opField 7)

/-! ### The opcode map -/

@[simp] theorem decode_encode (i : Instr) : decode (encode i) = .instr i := by
  rw [decode, fieldsOf_encode, decodeFields_instrFields]

/-- The decoder and the encoder are inverse to each other on the words that have a meaning (R53). -/
theorem decode_eq_instr_iff (cw : ControlWord) (i : Instr) :
    decode cw = .instr i ↔ cw = encode i := by
  constructor
  · exact fun h => (eq_encode_iff cw i).mpr (eq_instrFields_of_decodeFields h)
  · rintro rfl
    exact decode_encode i

theorem mem_allInstrs (i : Instr) : i ∈ allInstrs := by
  cases i <;> decide

/-- Settles O2: the list and its 13 words are closed facts; the two directions are
`decode_eq_instr_iff`. -/
theorem opcodeMapDecodesBothWays : Obligations.OpcodeMapDecodesBothWays :=
  ⟨rfl, mem_allInstrs, decode_encode, fun cw i => (decode_eq_instr_iff cw i).mp⟩

/-! ### The reserved words -/

/-- The decoder's two answers exclude each other and leave nothing out. -/
theorem exists_reserved_iff (d : Decoded) :
    (∃ r, d = .reserved r) ↔ ¬ ∃ i, d = .instr i := by
  cases d <;> simp

/-- A word is reserved exactly where its field pair is ill-formed (R54). -/
theorem exists_decode_eq_reserved_iff (cw : ControlWord) :
    (∃ r, decode cw = .reserved r) ↔ (fieldsOf cw).wf = false := by
  rw [exists_reserved_iff, decode, exists_decodeFields_eq_instr_iff, Bool.not_eq_true]

/-- The words of the encoder are well formed: they have a meaning. -/
theorem fieldsOf_encode_wf (i : Instr) : (fieldsOf (encode i)).wf = true :=
  (exists_decodeFields_eq_instr_iff _).mp ⟨i, decode_encode i⟩

/-- `SEQ_ROM` holds the words of the 13 micro-operations, each once, in order (R55). -/
theorem seqRom_eq_map_encode : seqRom = allInstrs.map encode := rfl

/-- The 243 ill-formed words are the other words of the 256, beside the 13 well-formed ones (R54). -/
theorem length_filter_wf_eq_false :
    ((List.range 256).filter fun n => (fieldsOf (BitVec.ofNat 8 n)).wf = false).length = 243 := by
  have hlegal : ((List.range 256).filter fun n => (fieldsOf (BitVec.ofNat 8 n)).wf).length = 13 := rfl
  have htotal := List.length_eq_length_filter_add (l := List.range 256)
    fun n => (fieldsOf (BitVec.ofNat 8 n)).wf
  rw [List.length_range, hlegal] at htotal
  simp only [Bool.decide_eq_false]
  omega

/-- Settles O3: the counts of the three classes of reserved words are closed facts over the 256 words,
and `SEQ_ROM` holds encoded micro-operations only. -/
theorem reservedWordsAreRefused : Obligations.ReservedWordsAreRefused := by
  refine ⟨exists_decode_eq_reserved_iff, rfl, rfl, rfl, length_filter_wf_eq_false,
    fun cw hcw => ?_⟩
  rw [seqRom_eq_map_encode] at hcw
  obtain ⟨i, -, rfl⟩ := List.mem_map.mp hcw
  exact fieldsOf_encode_wf i

/-! ### The fixed sequence -/

/-- Decoding a string of encoded micro-operations gives them back in order. -/
theorem decodeAll_map_encode (is : List Instr) : decodeAll (is.map encode) = is.map .instr := by
  simp [decodeAll]

/-- The expansion of `TRANSPOSE` is every micro-operation once, in the order of the sequence (R59). -/
theorem expand_transpose : expand .transpose = allInstrs := rfl

/-- Settles O4: the words of `SEQ_ROM` are the encodings of the expansion, so decoding gives the
expansion back. -/
theorem sequenceRomSpellsTranspose : Obligations.SequenceRomSpellsTranspose := by
  refine ⟨rfl, ?_, expand_transpose, fun _ => rfl⟩
  rw [seqRom_eq_map_encode, expand_transpose, decodeAll_map_encode]

end Sys2Proof.Machine
end

section
/-! The load and the store of 40_load_store: reads of the matrix space (20_memory R30), the positions of
the working vectors (00_scope R9), `LOAD` (R61), `STORE` (R62), and the transition of a busy engine with
a silent host (10_state R17). -/

namespace Sys2Proof.Machine

/-! ### Reads of the matrix space -/

theorem memRead_of_lt (m : Memory) {i : Nat} (hi : i < 32) : memRead m i = some (m.lookup i) :=
  if_pos ((rowIndexWf_iff i).mpr hi)

/-- Beyond the 32 rows there is nothing to read, whatever the buffer holds (95 X5). -/
theorem memRead_of_ge (m : Memory) {i : Nat} (hi : 32 ≤ i) : memRead m i = none :=
  if_neg fun h => absurd ((rowIndexWf_iff i).mp h) (Nat.not_lt.mpr hi)

/-- The lanes have all 32 rows (R63): an address that is no lane's row lies beyond the buffer. -/
theorem ge_of_forall_ne_effectiveRow {a : Nat} (ha : ∀ d l, a ≠ effectiveRow d l) : 32 ≤ a := by
  by_contra hlt
  obtain ⟨l, hl⟩ | ⟨l, hl⟩ := row_cases a (Nat.not_le.mp hlt)
  · exact ha 0 l (hl.trans (effectiveRow_zero l).symm)
  · exact ha 1 l (hl.trans (effectiveRow_one l).symm)

/-! ### The positions of the working vectors -/

/-- A position is 16 times its `d` field plus its `lane` field (30_encoding R51). -/
theorem toNat_eq_of_fields (p : Idx5) :
    p.toNat = if idxVector p then 16 + (idxLane p).val else (idxLane p).val := by
  decide +revert

/-- Where the two working vectors hold the 32 rows of `row` in order, position `p` holds row `p`
(00_scope R8(h), R9). -/
theorem cat_eq_of_rows {s : State} {row : Nat → Word} (h0 : ∀ l : Fin 16, s.v0[l] = row l.val)
    (h1 : ∀ l : Fin 16, s.v1[l] = row (16 + l.val)) (p : Idx5) : s.cat p = row p.toNat := by
  rw [toNat_eq_of_fields, State.cat]
  split
  next => exact h1 _
  next => exact h0 _

/-! ### `LOAD` -/

theorem exec_load (s : State) : exec .load s = .next (loadVectors s) := rfl

/-- Settles O10: `LOAD` is `loadVectors`, whose lanes are the rows and so give the positions; the buffer
it reads is the buffer it leaves. -/
theorem loadCopiesTheRowsIntoTheVectors : Obligations.LoadCopiesTheRowsIntoTheVectors := by
  refine ⟨⟨rfl, rfl⟩, fun s => ?_⟩
  obtain ⟨hv0, hv1, hframe⟩ := loadVectors_spec s
  refine ⟨loadVectors s, exec_load s, fun l => ⟨?_, ?_⟩, fun p => ?_, hframe, fun _ => rfl⟩
  · rw [memRead_of_lt s.mat (by omega), hv0]
  · rw [memRead_of_lt s.mat (by omega), hv1]
  · rw [memRead_of_lt s.mat p.isLt, cat_eq_of_rows hv0 hv1]

/-! ### `STORE` -/

theorem exec_store (s : State) : exec .store s = .next (storeVectors s) := rfl

/-- `STORE` as the host reads it back: the row of a lane holds that lane (R62, R63). -/
theorem memRead_storeVectors (s : State) (l : Fin 16) :
    memRead (storeVectors s).mat (effectiveRow 0 l) = some s.p0[l] ∧
      memRead (storeVectors s).mat (effectiveRow 1 l) = some s.p1[l] := by
  obtain ⟨hlower, hupper, -, -⟩ := storeVectors_spec s
  constructor
  · rw [memRead_of_lt _ (effectiveRow_lt 0 l), effectiveRow_zero, hlower]
  · rw [memRead_of_lt _ (effectiveRow_lt 1 l), effectiveRow_one, hupper]

/-! ### The transition of a busy engine with a silent host -/

/-- With no move of the host placed the step is the engine's own transition. -/
theorem step_of_silent (s : State) (hs : s.script = []) : step s = engineTransition s := by
  simp [step, transition, hs]

/-- A busy engine executes the micro-operation whose word stands at `step`, then advances (R17). -/
theorem engineTransition_of_fetch {s t : State} {i : Instr} (hb : s.busy = true)
    (hf : fetch s = some (encode i)) (hx : exec i s = .next t) :
    engineTransition s = .next (advance t) := by
  simp [engineTransition, hb, hf, runWord, hx]

/-- At step 12 the word fetched is that of `STORE` (10_state R25, 30_encoding R55). -/
theorem fetch_of_last {s : State} (hstep : s.step = 12) : fetch s = some (encode .store) := by
  rw [fetch, hstep]
  rfl

/-- The advance after step 12 completes the run (R17). -/
theorem advance_of_last {s : State} (hstep : s.step = 12) : advance s = s.completeSequencer :=
  if_pos hstep

/-- `STORE` run at step 12 of a busy engine with a silent host ends the run: the micro-operation leaves
`step` alone, so the advance sees step 12. -/
theorem step_store_completes {s t : State} (hs : s.script = []) (hb : s.busy = true)
    (hstep : s.step = 12) (hx : exec .store s = .next t) : step s = .next t.completeSequencer := by
  obtain ⟨-, -, hkept, -⟩ := exec_frame .store s t hx
  rw [step_of_silent s hs, engineTransition_of_fetch hb (fetch_of_last hstep) hx,
    advance_of_last (hkept.trans hstep)]

/-- Settles O11: `STORE` is `storeVectors`, read back lane by lane; an address that is no lane's row
reads as nothing before and after; the step at step 12 is `step_store_completes`. -/
theorem storeWritesEveryRowFromTheVectors : Obligations.StoreWritesEveryRowFromTheVectors := by
  refine ⟨⟨rfl, rfl⟩, fun s => ?_, fun s t => step_store_completes⟩
  refine ⟨storeVectors s, exec_store s, memRead_storeVectors s, fun a ha => ?_, rfl⟩
  have hge := ge_of_forall_ne_effectiveRow ha
  rw [memRead_of_ge _ hge, memRead_of_ge _ hge]

end Sys2Proof.Machine
end

section
/-! The lane permutations of 41_swizzle: a permutation as a copy by its index arrays (R64), the order of
the lanes (R65), the rows it leaves (R66, R67), and the six micro-operations (R68 to R73). -/

namespace Sys2Proof.Machine

/-! ### Positions and what they hold -/

theorem idxVector_positionOf_zero (l : Fin 16) : idxVector (positionOf 0 l) = false := by
  decide +revert

theorem idxVector_positionOf_one (l : Fin 16) : idxVector (positionOf 1 l) = true := by
  decide +revert

theorem idxLane_positionOf (d : Fin 2) (l : Fin 16) : idxLane (positionOf d l) = l := by
  decide +revert

/-- The position of lane `l` of the first vector holds `V0[l]` (00_scope R9). -/
@[simp] theorem cat_positionOf_zero (s : State) (l : Fin 16) : s.cat (positionOf 0 l) = s.v0[l] := by
  simp [State.cat, idxVector_positionOf_zero, idxLane_positionOf]

/-- The position of lane `l` of the second vector holds `V1[l]` (00_scope R9). -/
@[simp] theorem cat_positionOf_one (s : State) (l : Fin 16) : s.cat (positionOf 1 l) = s.v1[l] := by
  simp [State.cat, idxVector_positionOf_one, idxLane_positionOf]

/-- The 32 positions in order, `V0` before `V1` (00_scope R8(h)). -/
def allPositions : List Idx5 :=
  (List.finRange 16).map (positionOf 0) ++ (List.finRange 16).map (positionOf 1)

theorem count_allPositions (p : Idx5) : allPositions.count p = 1 := by
  decide +revert

theorem toList_eq_map_finRange (v : Lanes) : v.toList = (List.finRange 16).map fun l => v[l] := by
  refine List.ext_getElem (by simp) fun i _ _ => ?_
  simp

/-- Read in order, the positions hold the words of `V0` and then those of `V1`. -/
theorem map_cat_allPositions (s : State) :
    allPositions.map s.cat = s.v0.toList ++ s.v1.toList := by
  simp only [allPositions, List.map_append, List.map_map, toList_eq_map_finRange, Function.comp_def,
    cat_positionOf_zero, cat_positionOf_one]

/-! ### `permute`, lane by lane -/

theorem permute_p0 (a0 a1 : IndexArray) (s : State) (l : Fin 16) :
    (permute a0 a1 s).p0[l] = s.cat a0[l] := (permute_spec a0 a1 s).1 l

theorem permute_p1 (a0 a1 : IndexArray) (s : State) (l : Fin 16) :
    (permute a0 a1 s).p1[l] = s.cat a1[l] := (permute_spec a0 a1 s).2.1 l

theorem memRead_permute (a0 a1 : IndexArray) (s : State) (a : Nat) :
    memRead (permute a0 a1 s).mat a = memRead s.mat a := by
  rw [permute, State.withP_mat]

/-! ### No word is lost or duplicated -/

/-- A pair of arrays that names each position once is the 32 positions in another order. -/
theorem perm_allPositions_of_indexPairWf {a0 a1 : IndexArray} (h : indexPairWf a0 a1 = true) :
    (a0.toList ++ a1.toList).Perm allPositions := by
  refine List.perm_iff_count.mpr fun p => ?_
  have hcount := List.all_eq_true.mp h p.toNat (List.mem_range.mpr p.isLt)
  rw [BitVec.ofNat_toNat, BitVec.setWidth_eq, beq_iff_eq] at hcount
  rw [hcount, count_allPositions]

theorem toList_ofFn_cat (s : State) (a : IndexArray) :
    (Vector.ofFn fun l => s.cat a[l]).toList = a.toList.map s.cat := by
  refine List.ext_getElem (by simp) fun i _ _ => ?_
  simp

/-- `permute` by arrays that name each position once only reorders the 32 words (R64). -/
theorem permute_toList_perm {a0 a1 : IndexArray} (h : indexPairWf a0 a1 = true) (s : State) :
    ((permute a0 a1 s).p0.toList ++ (permute a0 a1 s).p1.toList).Perm
      (s.v0.toList ++ s.v1.toList) := by
  have hcopied : (permute a0 a1 s).p0.toList ++ (permute a0 a1 s).p1.toList =
      (a0.toList ++ a1.toList).map s.cat := by
    rw [List.map_append]
    exact congrArg₂ _ (toList_ofFn_cat s a0) (toList_ofFn_cat s a1)
  rw [hcopied, ← map_cat_allPositions]
  exact (perm_allPositions_of_indexPairWf h).map s.cat

theorem exec_swzOf (k : BlockSize) (s : State) :
    exec (swzOf k) s = .next (permute (swzP0 k) (swzP1 k) s) := by
  cases k <;> rfl

theorem exec_ilv (s : State) : exec .ilv s = .next (permute ilvP0 ilvP1 s) := rfl

/-- The five swizzles' arrays name each position once (10_state R23). -/
theorem indexPairWf_swz (k : BlockSize) : indexPairWf (swzP0 k) (swzP1 k) = true := by
  cases k <;> decide

/-- The interleave's arrays name each position once (10_state R24). -/
theorem indexPairWf_ilv : indexPairWf ilvP0 ilvP1 = true := by decide

/-- A micro-operation that is `permute` by arrays naming each position once does what R64 says. -/
theorem permutes_of_indexPairWf {i : Instr} {a0 a1 : IndexArray} (hwf : indexPairWf a0 a1 = true)
    (hexec : ∀ s, exec i s = .next (permute a0 a1 s)) (s : State) :
    ∃ t, exec i s = .next t ∧ (∀ l : Fin 16, t.p0[l] = s.cat a0[l] ∧ t.p1[l] = s.cat a1[l]) ∧
      t = { s with p0 := t.p0, p1 := t.p1 } ∧
      (t.p0.toList ++ t.p1.toList).Perm (s.v0.toList ++ s.v1.toList) := by
  obtain ⟨-, -, hframe⟩ := permute_spec a0 a1 s
  exact ⟨permute a0 a1 s, hexec s, fun l => ⟨permute_p0 a0 a1 s l, permute_p1 a0 a1 s l⟩, hframe,
    permute_toList_perm hwf s⟩

/-- Settles O23: each of the six is `permute` by a pair of arrays that names each position once. -/
theorem permutationsKeepEveryWord : Obligations.PermutationsKeepEveryWord := by
  rintro i a0 a1 (⟨k, rfl, rfl, rfl⟩ | ⟨rfl, rfl, rfl⟩)
  · exact ⟨indexPairWf_swz k, permutes_of_indexPairWf (indexPairWf_swz k) (exec_swzOf k)⟩
  · exact ⟨indexPairWf_ilv, permutes_of_indexPairWf indexPairWf_ilv exec_ilv⟩

/-! ### The order of the lanes -/

/-- Writes folded over a list of lanes: where the write of lane `l` puts the word `w` and no other lane's
write touches it, `w` is there once the list names `l`, whatever its place. -/
theorem read_foldl_write {σ : Type} {Inv : σ → Prop} {write : σ → Fin 16 → σ} {read : σ → Word}
    {l : Fin 16} {w : Word} (hinv : ∀ x j, Inv x → Inv (write x j))
    (hsame : ∀ x, Inv x → read (write x l) = w)
    (hother : ∀ x j, j ≠ l → read (write x j) = read x)
    {order : List (Fin 16)} (hl : l ∈ order) {x : σ} (hx : Inv x) :
    read (order.foldl write x) = w := by
  induction order using List.reverseRecOn with
  | nil => cases hl
  | append_singleton rest j ih =>
    rw [List.foldl_concat]
    by_cases hj : j = l
    · have hrest : Inv (rest.foldl write x) :=
        List.foldlRecOn rest write hx fun y hy k _ => hinv y k hy
      exact hj ▸ hsame _ hrest
    · have hmem : l ∈ rest := by simpa [Ne.symm hj] using hl
      rw [hother _ j hj, ih hmem]

/-- Lane `l` of a vector becomes `f l`. -/
def writeLane (f : Fin 16 → Word) (v : Lanes) (l : Fin 16) : Lanes := v.set l (f l)

theorem foldl_writeLane (f : Fin 16 → Word) {order : List (Fin 16)} (hall : ∀ l, l ∈ order)
    (v : Lanes) : order.foldl (writeLane f) v = Vector.ofFn f := by
  refine Vector.ext fun i hi => ?_
  rw [Vector.getElem_ofFn]
  exact read_foldl_write (Inv := fun _ => True) (write := writeLane f) (read := fun v => v[i])
    (l := ⟨i, hi⟩) (fun _ _ _ => trivial) (fun v _ => Vector.getElem_set_self _)
    (fun v j hj => Vector.getElem_set_ne _ _ fun e => hj (Fin.ext e)) (hall _) trivial

/-- A one-lane form that writes lane `l` of two vectors from what it leaves alone, folded over the lanes
in any order: the two vectors are written as one. -/
theorem foldl_lane_eq {put : Lanes → Lanes → State} {lane : State → Fin 16 → State}
    {f0 f1 : Fin 16 → Word}
    (hlane : ∀ a0 a1 l, lane (put a0 a1) l = put (writeLane f0 a0 l) (writeLane f1 a1 l))
    {order : List (Fin 16)} (hall : ∀ l, l ∈ order) (a0 a1 : Lanes) :
    order.foldl lane (put a0 a1) = put (Vector.ofFn f0) (Vector.ofFn f1) := by
  have hpair : order.foldl lane (put a0 a1) =
      put (order.foldl (writeLane f0) a0) (order.foldl (writeLane f1) a1) := by
    clear hall
    induction order generalizing a0 a1 with
    | nil => rfl
    | cons l rest ih => rw [List.foldl_cons, hlane, ih]; rfl
  rw [hpair, foldl_writeLane f0 hall, foldl_writeLane f1 hall]

/-- The two `MemWrite`s of one lane of `STORE`, on the buffer alone (40_load_store R62). -/
def putLane (a0 a1 : Lanes) (m : Memory) (l : Fin 16) : Memory :=
  (m.put (effectiveRow 0 l) a0[l]).put (effectiveRow 1 l) a1[l]

theorem foldl_storeLane (order : List (Fin 16)) (s : State) :
    order.foldl storeLane s = s.withMat (order.foldl (putLane s.p0 s.p1) s.mat) := by
  induction order generalizing s with
  | nil => rfl
  | cons l rest ih => rw [List.foldl_cons, ih]; rfl

theorem putLane_wf (a0 a1 : Lanes) (m : Memory) (l : Fin 16) (h : m.wf = true) :
    (putLane a0 a1 m l).wf = true :=
  Memory.put_wf _ _ _ (Memory.put_wf _ _ _ h (effectiveRow_lt 0 l)) (effectiveRow_lt 1 l)

theorem lookup_putLane_lower (a0 a1 : Lanes) {m : Memory} (h : m.wf = true) (l : Fin 16) :
    (putLane a0 a1 m l).lookup l.val = a0[l] := by
  simp only [putLane, effectiveRow_zero, effectiveRow_one]
  rw [Memory.lookup_put_other _ _ _ _ (by omega), Memory.lookup_put_same _ _ _ h]

theorem lookup_putLane_upper (a0 a1 : Lanes) {m : Memory} (h : m.wf = true) (l : Fin 16) :
    (putLane a0 a1 m l).lookup (16 + l.val) = a1[l] := by
  rw [putLane, effectiveRow_one]
  exact Memory.lookup_put_same _ _ _ (Memory.put_wf _ _ _ h (effectiveRow_lt 0 l))

/-- A lane's writes leave every row that is neither of its two as it was. -/
theorem lookup_putLane_other (a0 a1 : Lanes) (m : Memory) (l : Fin 16) {i : Nat}
    (h0 : i ≠ l.val) (h1 : i ≠ 16 + l.val) :
    (putLane a0 a1 m l).lookup i = m.lookup i := by
  simp only [putLane, effectiveRow_zero, effectiveRow_one]
  rw [Memory.lookup_put_other _ _ _ _ h1, Memory.lookup_put_other _ _ _ _ h0]

theorem foldl_putLane_wf (a0 a1 : Lanes) (order : List (Fin 16)) {m : Memory} (h : m.wf = true) :
    (order.foldl (putLane a0 a1) m).wf = true :=
  List.foldlRecOn order (motive := fun x : Memory => x.wf = true) _ h
    fun x hx l _ => putLane_wf a0 a1 x l hx

theorem lookup_foldl_putLane_lower (a0 a1 : Lanes) {order : List (Fin 16)} {l : Fin 16}
    (hl : l ∈ order) {m : Memory} (h : m.wf = true) :
    (order.foldl (putLane a0 a1) m).lookup l.val = a0[l] :=
  read_foldl_write (Inv := fun x : Memory => x.wf = true) (read := fun x => x.lookup l.val)
    (putLane_wf a0 a1) (fun _ hx => lookup_putLane_lower a0 a1 hx l)
    (fun x j hj => lookup_putLane_other a0 a1 x j (by omega) (by omega)) hl h

theorem lookup_foldl_putLane_upper (a0 a1 : Lanes) {order : List (Fin 16)} {l : Fin 16}
    (hl : l ∈ order) {m : Memory} (h : m.wf = true) :
    (order.foldl (putLane a0 a1) m).lookup (16 + l.val) = a1[l] :=
  read_foldl_write (Inv := fun x : Memory => x.wf = true) (read := fun x => x.lookup (16 + l.val))
    (putLane_wf a0 a1) (fun _ hx => lookup_putLane_upper a0 a1 hx l)
    (fun x j hj => lookup_putLane_other a0 a1 x j (by omega) (by omega)) hl h

/-- The lanes' writes in any order give the canonical buffer of the 32 rows. -/
theorem foldl_putLane (a0 a1 : Lanes) {order : List (Fin 16)} (hall : ∀ l, l ∈ order) {m : Memory}
    (h : m.wf = true) : order.foldl (putLane a0 a1) m = Memory.ofRows (rowOfVectors a0 a1) := by
  refine Memory.ext_of_wf _ _ (foldl_putLane_wf a0 a1 order h) (Memory.ofRows_wf _) fun i hi => ?_
  rw [Memory.lookup_ofRows _ _ hi]
  obtain ⟨l, rfl⟩ | ⟨l, rfl⟩ := row_cases i hi
  · rw [lookup_foldl_putLane_lower a0 a1 (hall l) h, rowOfVectors_lower]
  · rw [lookup_foldl_putLane_upper a0 a1 (hall l) h, rowOfVectors_upper]

/-- Settles O26: no one-lane form writes what another lane reads, so `LOAD`, the permutations and the
merges fold by `foldl_lane_eq` and `STORE` by `foldl_putLane`. -/
theorem laneOrderIsNotObservable : Obligations.LaneOrderIsNotObservable := by
  intro order s hall
  refine ⟨?_, fun a0 a1 => ?_, fun k => ?_, fun hwf => ?_⟩
  · exact foldl_lane_eq (put := s.withV) (lane := loadLane) (fun _ _ _ => rfl) hall s.v0 s.v1
  · exact foldl_lane_eq (put := s.withP) (lane := permuteLane a0 a1) (fun _ _ _ => rfl) hall s.p0 s.p1
  · exact foldl_lane_eq (put := s.withV) (lane := mergeLane k) (fun _ _ _ => rfl) hall s.v0 s.v1
  · rw [foldl_storeLane, foldl_putLane s.p0 s.p1 hall hwf, storeVectors]

/-! ### The rows that a permutation leaves -/

/-- The row at position `p` under a lane-to-row map. -/
def rowAt (rows : Nat → Nat → Nat) (p : Idx5) : Nat :=
  rows (if idxVector p then 1 else 0) (idxLane p).val

/-- Where the working vectors hold the rows of a lane-to-row map, a position holds the row there. -/
theorem cat_eq_of_rowAt {s : State} {row : Rows} {rows : Nat → Nat → Nat}
    (h : ∀ l : Fin 16, s.v0[l] = row (rows 0 l.val) ∧ s.v1[l] = row (rows 1 l.val)) (p : Idx5) :
    s.cat p = row (rowAt rows p) := by
  rw [State.cat, rowAt]
  cases idxVector p
  · exact (h _).1
  · exact (h _).2

/-- Composing the arrays of stage `k` with the map before it gives `ROW_k` (R66). -/
theorem rowAt_swz (k : BlockSize) (l : Fin 16) :
    rowAt (rowMapBefore k) (swzP0 k)[l] = rowMap k 0 l.val ∧
      rowAt (rowMapBefore k) (swzP1 k)[l] = rowMap k 1 l.val := by
  cases k <;> decide +revert

/-- The pairing of stage `k`: the second vector holds the row `k` above the first (R67). -/
theorem rowMap_one (k : BlockSize) (l : Fin 16) :
    rowMap k 1 l.val = rowMap k 0 l.val + blockSize k := by
  cases k <;> decide +revert

/-- `SWZk` run on the map before stage `k` leaves, lane for lane, the rows `k` apart. -/
theorem permute_swz_rows (k : BlockSize) {s : State} {row : Rows}
    (h : ∀ l : Fin 16, s.v0[l] = row (rowMapBefore k 0 l.val) ∧
      s.v1[l] = row (rowMapBefore k 1 l.val)) (l : Fin 16) :
    (permute (swzP0 k) (swzP1 k) s).p0[l] = row (rowMap k 0 l.val) ∧
      (permute (swzP0 k) (swzP1 k) s).p1[l] = row (rowMap k 0 l.val + blockSize k) := by
  obtain ⟨hrow0, hrow1⟩ := rowAt_swz k l
  constructor
  · rw [permute_p0, cat_eq_of_rowAt h, hrow0]
  · rw [permute_p1, cat_eq_of_rowAt h, hrow1, rowMap_one]

/-! ### The exchange of blocks -/

/-- The arrays of stage `k` at the two lanes `l` and `m = l + k`, bit `log2 k` of `l` clear: the upper
block of `V0` and the lower block of `V1` are exchanged (10_state R23). -/
theorem swz_entries (k : BlockSize) (l m : Fin 16) (hm : m.val = l.val + blockSize k)
    (hbit : l.val.testBit (blockLog2 k) = false) :
    (swzP0 k)[l] = positionOf 0 l ∧ (swzP0 k)[m] = positionOf 1 l ∧
      (swzP1 k)[l] = positionOf 0 m ∧ (swzP1 k)[m] = positionOf 1 m := by
  cases k <;> decide +revert

/-- The loops of R69 to R72 as one rule: `SWZk` on the lanes `l` and `m = l + k`. -/
theorem permute_swz_exchange (k : BlockSize) (s : State) (l m : Fin 16)
    (hm : m.val = l.val + blockSize k) (hbit : l.val.testBit (blockLog2 k) = false) :
    (permute (swzP0 k) (swzP1 k) s).p0[l] = s.v0[l] ∧
      (permute (swzP0 k) (swzP1 k) s).p0[m] = s.v1[l] ∧
      (permute (swzP0 k) (swzP1 k) s).p1[l] = s.v0[m] ∧
      (permute (swzP0 k) (swzP1 k) s).p1[m] = s.v1[m] := by
  obtain ⟨h0l, h0m, h1l, h1m⟩ := swz_entries k l m hm hbit
  simp only [permute_p0, permute_p1, h0l, h0m, h1l, h1m, cat_positionOf_zero, cat_positionOf_one,
    and_self]

/-- A lane in a block of even number has bit `log2 k` clear. -/
theorem testBit_blockLog2_eq_false {k : BlockSize} {l : Nat} (h : l / blockSize k % 2 = 0) :
    l.testBit (blockLog2 k) = false := by
  rw [← Bool.not_eq_true, testBit_blockLog2_iff, h]
  decide

/-! ### The six micro-operations -/

/-- The arrays of stage 16 are the identity (10_state R23). -/
theorem swz16_entries (l : Fin 16) :
    (swzP0 .k16)[l] = positionOf 0 l ∧ (swzP1 .k16)[l] = positionOf 1 l := by
  decide +revert

theorem permute_swz16 (s : State) (l : Fin 16) :
    (permute (swzP0 .k16) (swzP1 .k16) s).p0[l] = s.v0[l] ∧
      (permute (swzP0 .k16) (swzP1 .k16) s).p1[l] = s.v1[l] := by
  obtain ⟨h0, h1⟩ := swz16_entries l
  simp only [permute_p0, permute_p1, h0, h1, cat_positionOf_zero, cat_positionOf_one, and_self]

/-- Settles O12: the arrays are the identity, so the rows stay in their lanes. -/
theorem swz16CopiesLaneForLane : Obligations.Swz16CopiesLaneForLane := by
  refine ⟨⟨rfl, rfl⟩, fun s => ⟨_, exec_swzOf .k16 s, permute_swz16 s, rfl, memRead_permute _ _ s, ?_⟩⟩
  intro row hrow l
  rw [(permute_swz16 s l).1, (permute_swz16 s l).2]
  exact hrow l

/-- Settles O13: the lanes below 8 are the one block of even number of stage 8. -/
theorem swz8ExchangesBlocksOfEightLanes : Obligations.Swz8ExchangesBlocksOfEightLanes := by
  refine ⟨⟨rfl, rfl⟩, fun s => ⟨_, exec_swzOf .k8 s, fun l hl => ?_, rfl, memRead_permute _ _ s,
    fun row => permute_swz_rows .k8⟩⟩
  have heven : l / 8 % 2 = 0 := by omega
  exact permute_swz_exchange .k8 s ⟨l, by omega⟩ ⟨l + 8, by omega⟩ rfl
    (testBit_blockLog2_eq_false heven)

/-- Settles O14: the lanes `8h + j` are in the blocks of even number of stage 4. -/
theorem swz4ExchangesBlocksOfFourLanes : Obligations.Swz4ExchangesBlocksOfFourLanes := by
  refine ⟨⟨rfl, rfl⟩, fun s => ⟨_, exec_swzOf .k4 s, fun h j hh hj => ?_, rfl, memRead_permute _ _ s,
    fun row => permute_swz_rows .k4⟩⟩
  have heven : (8 * h + j) / 4 % 2 = 0 := by omega
  exact permute_swz_exchange .k4 s ⟨8 * h + j, by omega⟩ ⟨8 * h + 4 + j, by omega⟩
    (Nat.add_right_comm _ _ _) (testBit_blockLog2_eq_false heven)

/-- Settles O15: the lanes `4h + j` are in the blocks of even number of stage 2. -/
theorem swz2ExchangesPairsOfLanes : Obligations.Swz2ExchangesPairsOfLanes := by
  refine ⟨⟨rfl, rfl⟩, fun s => ⟨_, exec_swzOf .k2 s, fun h j hh hj => ?_, rfl, memRead_permute _ _ s,
    fun row => permute_swz_rows .k2⟩⟩
  have heven : (4 * h + j) / 2 % 2 = 0 := by omega
  exact permute_swz_exchange .k2 s ⟨4 * h + j, by omega⟩ ⟨4 * h + 2 + j, by omega⟩
    (Nat.add_right_comm _ _ _) (testBit_blockLog2_eq_false heven)

/-- After stage 1 the first vector holds the even rows in order (R66). -/
theorem rowMap_k1_zero (l : Fin 16) : rowMap .k1 0 l.val = 2 * l.val := by
  decide +revert

/-- Settles O16: the even lanes are the blocks of even number of stage 1. -/
theorem swz1InterleavesEvenAndOddLanes : Obligations.Swz1InterleavesEvenAndOddLanes := by
  refine ⟨⟨rfl, rfl⟩, fun s => ⟨_, exec_swzOf .k1 s, fun j hj => ?_, rfl, memRead_permute _ _ s,
    fun row hrow l => ?_⟩⟩
  · have heven : 2 * j / 1 % 2 = 0 := by omega
    exact permute_swz_exchange .k1 s ⟨2 * j, by omega⟩ ⟨2 * j + 1, by omega⟩ rfl
      (testBit_blockLog2_eq_false heven)
  · rw [← rowMap_k1_zero]
    exact permute_swz_rows .k1 hrow l

/-- The interleave's arrays at the lanes `m = 2j` and `n = 2j + 1`: lane `j` of the lower half for the
first vector, lane `u = 8 + j` of the upper half for the second (10_state R24). -/
theorem ilv_entries (j u m n : Fin 16) (hu : u.val = 8 + j.val) (hm : m.val = 2 * j.val)
    (hn : n.val = 2 * j.val + 1) :
    ilvP0[m] = positionOf 0 j ∧ ilvP0[n] = positionOf 1 j ∧
      ilvP1[m] = positionOf 0 u ∧ ilvP1[n] = positionOf 1 u := by
  obtain ⟨rfl, rfl, rfl⟩ : u = Fin.ofNat 16 (8 + j.val) ∧ m = Fin.ofNat 16 (2 * j.val) ∧
      n = Fin.ofNat 16 (2 * j.val + 1) := by
    simp only [Fin.ext_iff, Fin.val_ofNat]
    omega
  decide +revert

/-- The loop of R73. -/
theorem permute_ilv (s : State) (j u m n : Fin 16) (hu : u.val = 8 + j.val)
    (hm : m.val = 2 * j.val) (hn : n.val = 2 * j.val + 1) :
    (permute ilvP0 ilvP1 s).p0[m] = s.v0[j] ∧ (permute ilvP0 ilvP1 s).p0[n] = s.v1[j] ∧
      (permute ilvP0 ilvP1 s).p1[m] = s.v0[u] ∧ (permute ilvP0 ilvP1 s).p1[n] = s.v1[u] := by
  obtain ⟨h0m, h0n, h1m, h1n⟩ := ilv_entries j u m n hu hm hn
  simp only [permute_p0, permute_p1, h0m, h0n, h1m, h1n, cat_positionOf_zero, cat_positionOf_one,
    and_self]

/-- Composing the interleave's arrays with the map after stage 1 gives ascending order (R66). -/
theorem rowAt_ilv (l : Fin 16) :
    rowAt (fun d l => 2 * l + d) ilvP0[l] = l.val ∧
      rowAt (fun d l => 2 * l + d) ilvP1[l] = 16 + l.val := by
  decide +revert

/-- Settles O17: the loop is `permute_ilv`, the order of the rows the composition `rowAt_ilv`. -/
theorem ilvRestoresAscendingOrder : Obligations.IlvRestoresAscendingOrder := by
  refine ⟨⟨rfl, rfl⟩, fun s => ⟨_, exec_ilv s, fun j hj => ?_, rfl, memRead_permute _ _ s,
    fun row hrow l => ?_⟩⟩
  · exact permute_ilv s ⟨j, by omega⟩ ⟨8 + j, by omega⟩ ⟨2 * j, by omega⟩ ⟨2 * j + 1, by omega⟩
      rfl rfl rfl
  · obtain ⟨hrow0, hrow1⟩ := rowAt_ilv l
    have hcat := cat_eq_of_rowAt (rows := fun d l => 2 * l + d) hrow
    rw [permute_p0, permute_p1, hcat, hcat, hrow0, hrow1]
    exact ⟨rfl, rfl⟩

end Sys2Proof.Machine
end

section
/-! The masked merge of 42_merge: one bit of an index replaced (43_transpose R91), the mask laws (R75), the
merge of two words bit by bit (R76) and its equivalent forms (R77), the merge of the vector registers and
the scalar stage (R83), and the micro-operations (R78 to R81). -/

namespace Sys2Proof.Machine

/-! ### A number with one bit replaced -/

theorem withBit_eq_self {i b : Nat} {v : Bool} (h : i.testBit b = v) : withBit i b v = i := by
  cases v with
  | false => simp [withBit, h]
  | true =>
    have hle : 2 ^ b ≤ i := Nat.ge_two_pow_of_testBit h
    simp [withBit, h, Nat.sub_add_cancel hle]

theorem withBit_true_of_clear {i b : Nat} (h : i.testBit b = false) :
    withBit i b true = i + 2 ^ b := by
  simp [withBit, h]

theorem withBit_false_of_set {i b : Nat} (h : i.testBit b = true) :
    withBit i b false = i - 2 ^ b := by
  simp [withBit, h]

theorem testBit_add_two_pow {i b : Nat} (h : i.testBit b = false) :
    (i + 2 ^ b).testBit b = true := by
  rw [Nat.add_comm, Nat.testBit_two_pow_add_eq, h, Bool.not_false]

theorem testBit_sub_two_pow {i b : Nat} (h : i.testBit b = true) :
    (i - 2 ^ b).testBit b = false := by
  have hle : 2 ^ b ≤ i := Nat.ge_two_pow_of_testBit h
  rw [← Nat.add_sub_cancel' hle, Nat.testBit_two_pow_add_eq] at h
  simpa using h

@[simp] theorem testBit_withBit (i b : Nat) (v : Bool) : (withBit i b v).testBit b = v := by
  cases v <;> cases hi : i.testBit b
  · rw [withBit_eq_self hi, hi]
  · rw [withBit_false_of_set hi, testBit_sub_two_pow hi]
  · rw [withBit_true_of_clear hi, testBit_add_two_pow hi]
  · rw [withBit_eq_self hi, hi]

/-- Putting the old bit back undoes the replacement. -/
@[simp] theorem withBit_withBit_testBit (i b : Nat) (v : Bool) :
    withBit (withBit i b v) b (i.testBit b) = i := by
  cases v <;> cases hi : i.testBit b
  · rw [withBit_eq_self hi, withBit_eq_self hi]
  · have hle : 2 ^ b ≤ i := Nat.ge_two_pow_of_testBit hi
    rw [withBit_false_of_set hi, withBit_true_of_clear (testBit_sub_two_pow hi),
      Nat.sub_add_cancel hle]
  · rw [withBit_true_of_clear hi, withBit_false_of_set (testBit_add_two_pow hi), Nat.add_sub_cancel]
  · rw [withBit_eq_self hi, withBit_eq_self hi]

/-- A stage's index bit is one of the five bits of a row or column number (30_encoding R49). -/
theorem withBit_blockLog2_lt (k : BlockSize) {i : Nat} (hi : i < 32) (v : Bool) :
    withBit i (blockLog2 k) v < 32 := by
  cases k <;> decide +revert

/-! ### The mask laws -/

theorem not_maskRom_eq_ushiftRight (k : BlockSize) : ~~~(maskRom k) = maskRom k >>> blockSize k := by
  cases k <;> rfl

theorem maskRom_eq_shiftLeft_not (k : BlockSize) : maskRom k = ~~~(maskRom k) <<< blockSize k := by
  cases k <;> rfl

/-- Law (c), right shift: the shift carries the mask to its complement. -/
theorem ushiftRight_and_not_maskRom (k : BlockSize) (x : Word) :
    (x >>> blockSize k) &&& ~~~(maskRom k) = (x &&& maskRom k) >>> blockSize k := by
  rw [not_maskRom_eq_ushiftRight, BitVec.ushiftRight_and_distrib]

/-- Law (c), left shift: the shift carries the complement to the mask. -/
theorem shiftLeft_and_maskRom (k : BlockSize) (x : Word) :
    (x <<< blockSize k) &&& maskRom k = (x &&& ~~~(maskRom k)) <<< blockSize k := by
  rw [BitVec.shiftLeft_and_distrib, ← maskRom_eq_shiftLeft_not]

/-- Settles O7: law (a) holds of any word, (b) of the five literals, (c) follows from (b) since a shift
distributes over the conjunction, and (d) is R21's formula. -/
theorem maskLaws : Obligations.MaskLaws := by
  intro k
  refine ⟨⟨BitVec.and_not_self _, BitVec.or_not_self _⟩,
    ⟨not_maskRom_eq_ushiftRight k, maskRom_eq_shiftLeft_not k⟩,
    fun x => ⟨ushiftRight_and_not_maskRom k x, shiftLeft_and_maskRom k x⟩, fun c hc => ?_⟩
  rw [maskRom_getLsbD k c hc]

/-! ### The merge of two words, bit by bit -/

/-- The mask of stage `k` selects no column below `k`. -/
theorem blockSize_le_of_testBit {k : BlockSize} {c : Nat} (h : c.testBit (blockLog2 k) = true) :
    blockSize k ≤ c :=
  blockSize_eq_two_pow k ▸ Nat.ge_two_pow_of_testBit h

theorem mergeHi_getLsbD (k : BlockSize) (a b : Word) {c : Nat} (hc : c < 32) :
    (mergeHi k a b).getLsbD c =
      if c.testBit (blockLog2 k) then b.getLsbD c else a.getLsbD (c + blockSize k) := by
  rw [mergeHi, BitVec.getLsbD_or, BitVec.getLsbD_and, BitVec.getLsbD_and, BitVec.getLsbD_not,
    BitVec.getLsbD_ushiftRight, maskRom_getLsbD k c hc]
  cases c.testBit (blockLog2 k) <;> simp [hc, Nat.add_comm]

theorem mergeLo_getLsbD (k : BlockSize) (a b : Word) {c : Nat} (hc : c < 32) :
    (mergeLo k a b).getLsbD c =
      if c.testBit (blockLog2 k) then b.getLsbD (c - blockSize k) else a.getLsbD c := by
  rw [mergeLo, BitVec.getLsbD_or, BitVec.getLsbD_and, BitVec.getLsbD_and, BitVec.getLsbD_not,
    BitVec.getLsbD_shiftLeft, maskRom_getLsbD k c hc]
  cases hbit : c.testBit (blockLog2 k) with
  | false => simp [hc]
  | true => simp [hc, blockSize_le_of_testBit hbit]

/-- The merge exchanges an index bit: the bit at column `c` of result `hi` comes from the source that bit
`log2(k)` of `c` names, at the column `c` with that bit replaced by `hi`. -/
theorem merge_getLsbD (k : BlockSize) (a b : Word) (hi : Bool) {c : Nat} (hc : c < 32) :
    (if hi then mergeHi k a b else mergeLo k a b).getLsbD c =
      (if c.testBit (blockLog2 k) then b else a).getLsbD (withBit c (blockLog2 k) hi) := by
  cases hi with
  | true =>
    rw [if_pos rfl, mergeHi_getLsbD k a b hc, blockSize_eq_two_pow]
    split
    next hset => rw [withBit_eq_self hset]
    next hclear => rw [withBit_true_of_clear (Bool.not_eq_true _ ▸ hclear)]
  | false =>
    rw [if_neg Bool.false_ne_true, mergeLo_getLsbD k a b hc, blockSize_eq_two_pow]
    split
    next hset => rw [withBit_false_of_set hset]
    next hclear => rw [withBit_eq_self (Bool.not_eq_true _ ▸ hclear)]

/-! ### The equivalent forms -/

theorem mergeHi_eq_sourceSide (k : BlockSize) (a b : Word) :
    mergeHi k a b = (b &&& maskRom k) ||| ((a &&& maskRom k) >>> blockSize k) := by
  rw [mergeHi, ushiftRight_and_not_maskRom]

theorem mergeLo_eq_sourceSide (k : BlockSize) (a b : Word) :
    mergeLo k a b = (a &&& ~~~(maskRom k)) ||| ((b &&& ~~~(maskRom k)) <<< blockSize k) := by
  rw [mergeLo, shiftLeft_and_maskRom]

/-- Two words joined by a mask: where they differ, the exclusive or flips the first to the second. -/
theorem or_and_not_eq_xor (x y m : Word) :
    (y &&& m) ||| (x &&& ~~~m) = y ^^^ ((x ^^^ y) &&& ~~~m) := by
  ext c hc
  cases hm : m[c] <;> simp [hm, Bool.xor_left_comm y[c]]

theorem mergeHi_eq_xor (k : BlockSize) (a b : Word) :
    mergeHi k a b = b ^^^ (((a >>> blockSize k) ^^^ b) &&& ~~~(maskRom k)) :=
  or_and_not_eq_xor (a >>> blockSize k) b (maskRom k)

theorem mergeLo_eq_xor (k : BlockSize) (a b : Word) :
    mergeLo k a b =
      a ^^^ ((((a >>> blockSize k) ^^^ b) &&& ~~~(maskRom k)) <<< blockSize k) := by
  rw [← shiftLeft_and_maskRom]
  refine BitVec.eq_of_getLsbD_eq fun c hc => ?_
  rw [mergeLo_getLsbD k a b hc, BitVec.getLsbD_xor, BitVec.getLsbD_and, BitVec.getLsbD_shiftLeft,
    BitVec.getLsbD_xor, BitVec.getLsbD_ushiftRight, maskRom_getLsbD k c hc]
  cases hbit : c.testBit (blockLog2 k) with
  | false => simp
  | true =>
    have hle : blockSize k ≤ c := blockSize_le_of_testBit hbit
    simp [hc, Nat.not_lt.mpr hle, Nat.add_sub_cancel' hle]

/-- Merging the results again gives the sources back: the exchange of an index bit is its own
inverse. -/
theorem merge_merge (k : BlockSize) (a b : Word) (hi : Bool) :
    (if hi then mergeHi k (mergeLo k a b) (mergeHi k a b)
      else mergeLo k (mergeLo k a b) (mergeHi k a b)) = if hi then b else a := by
  refine BitVec.eq_of_getLsbD_eq fun c hc => ?_
  rw [merge_getLsbD k _ _ hi hc, merge_getLsbD k a b _ (withBit_blockLog2_lt k hc hi),
    testBit_withBit, withBit_withBit_testBit]

/-- Where the merge of size `k` takes a bit from: result number and column to source number and
column. -/
def mergeSource (k : BlockSize) (place : Bool × Fin 32) : Bool × Fin 32 :=
  (place.2.val.testBit (blockLog2 k),
    ⟨withBit place.2.val (blockLog2 k) place.1, withBit_blockLog2_lt k place.2.isLt place.1⟩)

theorem mergeSource_involutive (k : BlockSize) : Function.Involutive (mergeSource k) := by
  intro place
  simp [mergeSource]

theorem merge_xor (k : BlockSize) (a b a' b' : Word) (hi : Bool) :
    (if hi then mergeHi k (a ^^^ a') (b ^^^ b') else mergeLo k (a ^^^ a') (b ^^^ b')) =
      (if hi then mergeHi k a b else mergeLo k a b) ^^^
        (if hi then mergeHi k a' b' else mergeLo k a' b') := by
  refine BitVec.eq_of_getLsbD_eq fun c hc => ?_
  rw [BitVec.getLsbD_xor, merge_getLsbD k _ _ hi hc, merge_getLsbD k a b hi hc,
    merge_getLsbD k a' b' hi hc]
  split <;> exact BitVec.getLsbD_xor

/-- Settles O25: (a) is mask law (c), (b) the join of two words by a mask, (c) and (d) the exchange of an
index bit, which is an involution of the 64 places and acts bit by bit. -/
theorem mergeEquivalentForms : Obligations.MergeEquivalentForms := by
  refine fun k => ⟨fun a b => ⟨?_, ?_, ?_⟩, ?_, fun a b a' b' => ?_⟩
  · exact ⟨mergeHi_eq_sourceSide k a b, mergeLo_eq_sourceSide k a b⟩
  · exact ⟨mergeHi_eq_xor k a b, mergeLo_eq_xor k a b⟩
  · exact ⟨merge_merge k a b false, merge_merge k a b true⟩
  · exact ⟨(mergeSource_involutive k).toPerm, fun a b hi c => merge_getLsbD k a b hi c.isLt⟩
  · exact ⟨merge_xor k a b a' b' true, merge_xor k a b a' b' false⟩

/-! ### The merge of the vector registers -/

theorem exec_mrgOf (k : BlockSize) (s : State) : exec (mrgOf k) s = .next (merge k s) := by
  cases k <;> rfl

theorem merge_v0 (k : BlockSize) (s : State) (l : Fin 16) :
    (merge k s).v0[l] = mergeLo k s.p0[l] s.p1[l] := (merge_spec k s).1 l

theorem merge_v1 (k : BlockSize) (s : State) (l : Fin 16) :
    (merge k s).v1[l] = mergeHi k s.p0[l] s.p1[l] := (merge_spec k s).2.1 l

theorem memRead_merge (k : BlockSize) (s : State) (a : Nat) :
    memRead (merge k s).mat a = memRead s.mat a := by
  rw [merge, State.withV_mat]

/-- Settles O24: `MRGk` is `merge k`, whose lanes are the rule's expressions by definition; their bits
are those of `mergeHi_getLsbD` and `mergeLo_getLsbD`. -/
theorem mergeIsTheScalarBlockSwapPerLane : Obligations.MergeIsTheScalarBlockSwapPerLane := by
  refine fun k s => ⟨merge k s, exec_mrgOf k s, rfl, fun l => ?_⟩
  rw [merge_v0, merge_v1]
  refine ⟨⟨rfl, rfl⟩, fun c hc => ?_⟩
  rw [mergeHi_getLsbD k _ _ hc, mergeLo_getLsbD k _ _ hc]
  split <;> exact ⟨rfl, rfl⟩

/-- The lanes of a merge with the mask and its complement written as literals. -/
theorem merge_lanes (k : BlockSize) {m n : Word} (hm : maskRom k = m) (hn : ~~~(maskRom k) = n)
    (s : State) (l : Fin 16) :
    (merge k s).v1[l] = (s.p1[l] &&& m) ||| ((s.p0[l] >>> blockSize k) &&& n) ∧
      (merge k s).v0[l] = (s.p0[l] &&& n) ||| ((s.p1[l] <<< blockSize k) &&& m) := by
  rw [merge_v0, merge_v1, mergeHi, mergeLo, hn, hm]
  exact ⟨rfl, rfl⟩

/-! ### The merge as a scalar stage -/

theorem scalarStage_of_clear {k : BlockSize} {r : Nat} (h : r.testBit (blockLog2 k) = false)
    (a : Rows) : scalarStage k a r = mergeLo k (a r) (a (r + blockSize k)) :=
  if_neg (by simp [h])

theorem scalarStage_of_set {k : BlockSize} {r : Nat} (h : r.testBit (blockLog2 k) = true)
    (a : Rows) : scalarStage k a r = mergeHi k (a (r - blockSize k)) (a r) :=
  if_pos h

/-- On a lane that holds the rows `r` and `r + k` of a pair, the merge is the scalar stage on both. -/
theorem merge_eq_scalarStage {k : BlockSize} {s : State} {row : Rows} {l : Fin 16} {r : Nat}
    (hr : r.testBit (blockLog2 k) = false) (h0 : s.p0[l] = row r)
    (h1 : s.p1[l] = row (r + blockSize k)) :
    (merge k s).v0[l] = scalarStage k row r ∧
      (merge k s).v1[l] = scalarStage k row (r + blockSize k) := by
  have hr' : (r + blockSize k).testBit (blockLog2 k) = true :=
    blockSize_eq_two_pow k ▸ testBit_add_two_pow hr
  rw [merge_v0, merge_v1, h0, h1, scalarStage_of_clear hr, scalarStage_of_set hr',
    Nat.add_sub_cancel]
  exact ⟨rfl, rfl⟩

/-- The lower row of every pair has bit `log2(k)` clear (41_swizzle R67). -/
theorem testBit_rowMap_zero (k : BlockSize) (l : Fin 16) :
    (rowMap k 0 l.val).testBit (blockLog2 k) = false := by
  cases k <;> decide +revert

/-- `MRGk` on the rows `k` apart that `SWZk` leaves does the scalar stage on all 32 rows. -/
theorem merge_rows (k : BlockSize) {s : State} {row : Rows}
    (h : ∀ l : Fin 16, s.p0[l] = row (rowMap k 0 l.val) ∧
      s.p1[l] = row (rowMap k 0 l.val + blockSize k)) (l : Fin 16) :
    (merge k s).v0[l] = scalarStage k row (rowMap k 0 l.val) ∧
      (merge k s).v1[l] = scalarStage k row (rowMap k 0 l.val + blockSize k) :=
  merge_eq_scalarStage (testBit_rowMap_zero k l) (h l).1 (h l).2

/-! ### The micro-operations -/

/-- At stage 16 the columns the mask selects are those of the upper halfword. -/
theorem testBit_blockLog2_k16 {c : Nat} (hc : c < 32) :
    c.testBit (blockLog2 .k16) = !decide (c < 16) := by
  decide +revert

theorem mergeHi_k16 (a b : Word) :
    mergeHi .k16 a b = b.extractLsb' 16 16 ++ a.extractLsb' 16 16 := by
  refine BitVec.eq_of_getLsbD_eq fun c hc => ?_
  rw [mergeHi_getLsbD .k16 a b hc, BitVec.getLsbD_append, BitVec.getLsbD_extractLsb',
    BitVec.getLsbD_extractLsb', testBit_blockLog2_k16 hc, blockSize]
  by_cases hlow : c < 16
  · simp [hlow, Nat.add_comm]
  · have hle : 16 ≤ c := Nat.not_lt.mp hlow
    simp [hlow, Nat.add_sub_cancel' hle, show c - 16 < 16 by omega]

theorem mergeLo_k16 (a b : Word) :
    mergeLo .k16 a b = b.extractLsb' 0 16 ++ a.extractLsb' 0 16 := by
  refine BitVec.eq_of_getLsbD_eq fun c hc => ?_
  rw [mergeLo_getLsbD .k16 a b hc, BitVec.getLsbD_append, BitVec.getLsbD_extractLsb',
    BitVec.getLsbD_extractLsb', testBit_blockLog2_k16 hc, blockSize]
  by_cases hlow : c < 16
  · simp [hlow]
  · simp [hlow, show c - 16 < 16 by omega]

/-- Settles O18: the expressions are those of every merge, the halfwords their bits at stage 16, and a
lane number is a row number with bit 4 clear. -/
theorem mrg16ExchangesHalfwords : Obligations.Mrg16ExchangesHalfwords := by
  refine ⟨⟨rfl, rfl⟩, fun s => ⟨merge .k16 s, exec_mrgOf .k16 s, fun l => ?_, rfl,
    memRead_merge .k16 s, fun row hrow l => ?_⟩⟩
  · obtain ⟨hhi, hlo⟩ := merge_lanes .k16 rfl rfl s l
    refine ⟨hhi, hlo, ?_, ?_⟩
    · rw [merge_v1, mergeHi_k16]
    · rw [merge_v0, mergeLo_k16]
  · obtain ⟨h0, h1⟩ := hrow l
    have hclear : l.val.testBit (blockLog2 .k16) = false := Nat.testBit_lt_two_pow l.isLt
    rw [Nat.add_comm 16] at h1 ⊢
    exact merge_eq_scalarStage hclear h0 h1

/-- `MRGk` as the rules R79 to R82 state it, `m` and `n` the mask and its complement as literals. -/
theorem mrgOf_spec (k : BlockSize) {m n : Word} (hm : maskRom k = m) (hn : ~~~(maskRom k) = n)
    (s : State) :
    ∃ t, exec (mrgOf k) s = .next t ∧
      (∀ l : Fin 16,
        t.v1[l] = (s.p1[l] &&& m) ||| ((s.p0[l] >>> blockSize k) &&& n) ∧
          t.v0[l] = (s.p0[l] &&& n) ||| ((s.p1[l] <<< blockSize k) &&& m)) ∧
      t = { s with v0 := t.v0, v1 := t.v1 } ∧
      (∀ a : Nat, memRead t.mat a = memRead s.mat a) ∧
      ∀ row : Rows,
        (∀ l : Fin 16, s.p0[l] = row (rowMap k 0 l.val) ∧
          s.p1[l] = row (rowMap k 0 l.val + blockSize k)) →
        ∀ l : Fin 16, t.v0[l] = scalarStage k row (rowMap k 0 l.val) ∧
          t.v1[l] = scalarStage k row (rowMap k 0 l.val + blockSize k) :=
  ⟨merge k s, exec_mrgOf k s, merge_lanes k hm hn s, rfl, memRead_merge k s, fun _ => merge_rows k⟩

/-- Settles O19. -/
theorem mrg8ExchangesBytes : Obligations.Mrg8ExchangesBytes :=
  ⟨⟨rfl, rfl⟩, mrgOf_spec .k8 rfl rfl⟩

/-- Settles O20. -/
theorem mrg4ExchangesNibbles : Obligations.Mrg4ExchangesNibbles :=
  ⟨⟨rfl, rfl⟩, mrgOf_spec .k4 rfl rfl⟩

/-- Settles O21. -/
theorem mrg2ExchangesBitPairs : Obligations.Mrg2ExchangesBitPairs :=
  ⟨⟨rfl, rfl⟩, mrgOf_spec .k2 rfl rfl⟩

end Sys2Proof.Machine
end

section
/-! The run of the machine: one more step of a run, the run after its start while the host is silent
(10_state R17, R18), and the registers of the fixed sequence (42_merge R83). -/

namespace Sys2Proof.Machine

/-! ### A run, step by step -/

theorem run_zero (s : State) : run 0 s = .next s := rfl

theorem run_succ_of_step {s t : State} (h : step s = .next t) (n : Nat) :
    run (n + 1) s = run n t := by
  simp only [run, Host.Core.run]
  rw [show Sys2Proof.core.step s = .next t from h]

/-- A run goes on with one more step at its end. -/
theorem run_snoc {n : Nat} {s t u : State} (hrun : run n s = .next t) (hstep : step t = .next u) :
    run (n + 1) s = .next u := by
  induction n generalizing s with
  | zero =>
    cases hrun
    exact run_succ_of_step hstep 0
  | succ n ih =>
    cases hfirst : step s with
    | next s' =>
      rw [run_succ_of_step hfirst] at hrun ⊢
      exact ih hrun
    | fault f => cases f
    | refused r =>
      simp only [run, Host.Core.run] at hrun
      rw [show Sys2Proof.core.step s = .refused r from hfirst] at hrun
      cases hrun

/-! ### What the advance keeps -/

@[simp] theorem advance_v0 (s : State) : (advance s).v0 = s.v0 := by
  rw [advance_frame, State.withSequencer_v0]
@[simp] theorem advance_v1 (s : State) : (advance s).v1 = s.v1 := by
  rw [advance_frame, State.withSequencer_v1]
@[simp] theorem advance_p0 (s : State) : (advance s).p0 = s.p0 := by
  rw [advance_frame, State.withSequencer_p0]
@[simp] theorem advance_p1 (s : State) : (advance s).p1 = s.p1 := by
  rw [advance_frame, State.withSequencer_p1]

/-! ### The run after its start -/

/-- `t` is where the run of `s` stands when its start and `n` micro-operations are done and the next one
is at step `n`. -/
structure RunAt (s : State) (n : Nat) (t : State) : Prop where
  run_eq : run (n + 1) s = .next t
  busy : t.busy = true
  step_eq : t.step = BitVec.ofNat 4 n
  script : t.script = []

/-- The start puts an idle engine before its first micro-operation, the matrix buffer untouched. -/
theorem runAt_start {s : State} (hidle : s.busy = false) (hscript : s.script = startOnly) :
    RunAt s 0 (s.withScript []).startSequencer := by
  have hstep : step s = .next (s.withScript []).startSequencer :=
    (step_of_hostMove s .start [] hscript).trans (hostStart_of_idle _ hidle)
  exact ⟨run_snoc (run_zero s) hstep, rfl, rfl, rfl⟩

/-- Before step `n` the word fetched is that of micro-operation `n` of the sequence. -/
theorem RunAt.fetch_eq {s t : State} {n : Nat} {i : Instr} (h : RunAt s n t)
    (hi : allInstrs[n]? = some i) : fetch t = some (encode i) := by
  have hlt : n < 13 := (List.getElem?_eq_some_iff.mp hi).1
  have hn : t.step.toNat = n := by
    rw [h.step_eq, BitVec.toNat_ofNat]
    omega
  rw [fetch, hn, seqRom_eq_map_encode, List.getElem?_map, hi, Option.map_some]

/-- The run's next transition executes micro-operation `n` and stands before the one after it. -/
theorem RunAt.next {s t u : State} {n : Nat} {i : Instr} (h : RunAt s n t) (hn : n < 12)
    (hi : allInstrs[n]? = some i) (hx : exec i t = .next u) : RunAt s (n + 1) (advance u) := by
  obtain ⟨hbusy, -, hstep, hscript, -, -⟩ := exec_frame i t u hx
  have hnext : step t = .next (advance u) :=
    (step_of_silent t h.script).trans (engineTransition_of_fetch h.busy (h.fetch_eq hi) hx)
  have hstep' : u.step = BitVec.ofNat 4 n := hstep.trans h.step_eq
  have hnotLast : u.step ≠ 12 := by
    rw [hstep']
    bv_omega
  obtain ⟨hlast, -⟩ | ⟨-, hadvance⟩ := advance_cases u
  · exact absurd hlast hnotLast
  · refine ⟨run_snoc h.run_eq hnext, ?_, ?_, ?_⟩
    · rw [hadvance, State.withSequencer_busy, hbusy, h.busy]
    · rw [hadvance, State.withSequencer_step, hstep']
      exact (BitVec.ofNat_add n 1).symm
    · rw [hadvance, State.withSequencer_script, hscript, h.script]

/-! ### The stages in the fixed sequence -/

/-- Stage number `j` is at the steps `2j + 1` and `2j + 2` (30_encoding R55). -/
theorem allInstrs_of_stageOrder {j : Nat} {k : BlockSize} (hk : stageOrder[j]? = some k) :
    j < 5 ∧ allInstrs[2 * j + 1]? = some (swzOf k) ∧ allInstrs[2 * j + 2]? = some (mrgOf k) := by
  obtain ⟨hj, rfl⟩ := List.getElem?_eq_some_iff.mp hk
  clear hk
  revert j
  decide

/-- A stage begins with the map and the matrix that the stage before it left (41_swizzle R66,
42_merge R83). -/
theorem stage_follows {j : Nat} {k : BlockSize} (hk : stageOrder[j + 1]? = some k) :
    ∃ k', stageOrder[j]? = some k' ∧ rowMapBefore k = rowMap k' ∧
      ∀ m, scalarBefore m k = scalarAfter m k' := by
  match j, hk with
  | 0, rfl => exact ⟨.k16, rfl, rfl, fun _ => rfl⟩
  | 1, rfl => exact ⟨.k8, rfl, rfl, fun _ => rfl⟩
  | 2, rfl => exact ⟨.k4, rfl, rfl, fun _ => rfl⟩
  | 3, rfl => exact ⟨.k2, rfl, rfl, fun _ => rfl⟩

/-- Two vectors hold the rows of `row` at the lanes a lane-to-row map gives. -/
def HoldsRows (a0 a1 : Lanes) (row : Rows) (rows : Nat → Nat → Nat) : Prop :=
  ∀ l : Fin 16, a0[l] = row (rows 0 l.val) ∧ a1[l] = row (rows 1 l.val)

/-- `SWZk` moves the rows from the map before stage `k` to `ROW_k`. -/
theorem permute_swz_holdsRows (k : BlockSize) {s : State} {row : Rows}
    (h : HoldsRows s.v0 s.v1 row (rowMapBefore k)) :
    HoldsRows (permute (swzP0 k) (swzP1 k) s).p0 (permute (swzP0 k) (swzP1 k) s).p1 row
      (rowMap k) := by
  intro l
  rw [rowMap_one]
  exact permute_swz_rows k h l

/-- `MRGk` on the rows at `ROW_k` does the scalar stage and leaves each row in its lane. -/
theorem merge_holdsRows (k : BlockSize) {s : State} {row : Rows}
    (h : HoldsRows s.p0 s.p1 row (rowMap k)) :
    HoldsRows (merge k s).v0 (merge k s).v1 (scalarStage k row) (rowMap k) := by
  intro l
  rw [rowMap_one]
  exact merge_rows k (fun l => rowMap_one k l ▸ h l) l

/-- Stage number `j` in the run, from what the working vectors hold when it begins: its two
micro-operations, and the registers after each. -/
theorem RunAt.stage {s t : State} {j : Nat} {k : BlockSize} {row : Rows}
    (h : RunAt s (2 * j + 1) t) (hk : stageOrder[j]? = some k)
    (hrows : HoldsRows t.v0 t.v1 row (rowMapBefore k)) :
    (∃ u, RunAt s (2 * j + 2) u ∧ HoldsRows u.p0 u.p1 row (rowMap k)) ∧
      ∃ u, RunAt s (2 * j + 3) u ∧ HoldsRows u.v0 u.v1 (scalarStage k row) (rowMap k) := by
  obtain ⟨hj, hswz, hmrg⟩ := allInstrs_of_stageOrder hk
  have hpermuted := h.next (by omega) hswz (exec_swzOf k t)
  have hp := permute_swz_holdsRows k hrows
  rw [← advance_p0, ← advance_p1] at hp
  have hmerged := hpermuted.next (by omega) hmrg (exec_mrgOf k _)
  have hv := merge_holdsRows k hp
  rw [← advance_v0, ← advance_v1] at hv
  exact ⟨⟨_, hpermuted, hp⟩, ⟨_, hmerged, hv⟩⟩

section
variable {s : State} (hidle : s.busy = false) (hscript : s.script = startOnly)
include hidle hscript

/-- After `LOAD` the working vectors hold the operand, row `16 d + l` at lane `l` of vector `d`. -/
theorem runAt_load :
    ∃ t, RunAt s 1 t ∧ HoldsRows t.v0 t.v1 s.mat.lookup (rowMapBefore .k16) := by
  refine ⟨_, (runAt_start hidle hscript).next (by decide) rfl (exec_load _), fun l => ?_⟩
  obtain ⟨hv0, hv1, -⟩ := loadVectors_spec (s.withScript []).startSequencer
  rw [advance_v0, advance_v1, hv0, hv1]
  exact ⟨congrArg s.mat.lookup (Nat.zero_add l.val).symm, rfl⟩

/-- Stage `k` begins with `A_2k` in the working vectors, at the lanes the stage before left. -/
theorem runAt_stage_begins (j : Nat) :
    ∀ k, stageOrder[j]? = some k → ∃ t, RunAt s (2 * j + 1) t ∧
      HoldsRows t.v0 t.v1 (scalarBefore s.mat.lookup k) (rowMapBefore k) := by
  induction j with
  | zero =>
    rintro k ⟨⟩
    exact runAt_load hidle hscript
  | succ j ih =>
    intro k hk
    obtain ⟨k', hk', hmap, hbefore⟩ := stage_follows hk
    obtain ⟨t, ht, hrows⟩ := ih k' hk'
    rw [hmap, hbefore]
    exact (ht.stage hk' hrows).2

/-- Stage `k` of the run: `A_2k` at the lanes of `ROW_k` after `SWZk`, `A_k` there after `MRGk`. -/
theorem runAt_stage {j : Nat} {k : BlockSize} (hk : stageOrder[j]? = some k) :
    (∃ t, RunAt s (2 * j + 2) t ∧
        HoldsRows t.p0 t.p1 (scalarBefore s.mat.lookup k) (rowMap k)) ∧
      ∃ t, RunAt s (2 * j + 3) t ∧
        HoldsRows t.v0 t.v1 (scalarAfter s.mat.lookup k) (rowMap k) := by
  obtain ⟨t, ht, hrows⟩ := runAt_stage_begins hidle hscript j k hk
  exact ht.stage hk hrows

/-- After `ILV` the prepared vectors hold `A_1` in ascending order. -/
theorem runAt_ilv :
    ∃ t, RunAt s 12 t ∧ ∀ l : Fin 16, t.p0[l] = scalarAfter s.mat.lookup .k1 l.val ∧
      t.p1[l] = scalarAfter s.mat.lookup .k1 (16 + l.val) := by
  obtain ⟨-, t, ht, hrows⟩ := runAt_stage hidle hscript (j := 4) (k := .k1) rfl
  obtain ⟨u, hx, -, -, -, hascending⟩ := ilvRestoresAscendingOrder.2 t
  refine ⟨advance u, ht.next (by decide) rfl hx, fun l => ?_⟩
  rw [advance_p0, advance_p1]
  refine hascending (scalarAfter s.mat.lookup .k1) (fun l => ?_) l
  obtain ⟨h0, h1⟩ := hrows l
  rw [rowMap_one, rowMap_k1_zero] at h1
  rw [rowMap_k1_zero] at h0
  exact ⟨h0, h1⟩

/-- The whole run ends with `STORE`: completed, and the matrix buffer holds `A_1`. -/
theorem run_store :
    ∃ t : State, run 14 s = .next t.completeSequencer ∧
      ∀ i, i < 32 → t.mat.lookup i = scalarAfter s.mat.lookup .k1 i := by
  obtain ⟨t, ht, hrows⟩ := runAt_ilv hidle hscript
  have hstep := step_store_completes ht.script ht.busy ht.step_eq (exec_store t)
  refine ⟨storeVectors t, run_snoc ht.run_eq hstep, fun i hi => ?_⟩
  obtain ⟨hlower, hupper, -, -⟩ := storeVectors_spec t
  obtain ⟨l, rfl⟩ | ⟨l, rfl⟩ := row_cases i hi
  · rw [hlower, (hrows l).1]
  · rw [hupper, (hrows l).2]

end

/-- Settles O47 by the run's stages, its interleave and its store. -/
theorem registersFollowTheScalarAlgorithm : Obligations.RegistersFollowTheScalarAlgorithm := by
  refine fun s hidle hscript => ⟨fun j k hk => ?_, ?_, ?_⟩
  · obtain ⟨⟨t, ht, hp⟩, u, hu, hv⟩ := runAt_stage hidle hscript hk
    rw [Nat.add_comm 3, Nat.add_comm 4]
    exact ⟨⟨t, ht.run_eq, hp⟩, u, hu.run_eq, hv⟩
  · obtain ⟨t, ht, hp⟩ := runAt_ilv hidle hscript
    exact ⟨t, ht.run_eq, hp⟩
  · obtain ⟨t, ht, hmat⟩ := run_store hidle hscript
    exact ⟨t.completeSequencer, ht, hmat⟩

end Sys2Proof.Machine
end

section
/-! The transform of 43_transpose as mathematics: the exchange of index bits by the scalar stages (R91), and
the whole-word form of the contract (R85) read bit by bit. -/

namespace Sys2Proof.Machine

/-! ### A number around one of its bits -/

/-- The low `b + 1` bits of a number are bit `b` above the low `b` bits. -/
theorem mod_two_pow_succ_eq (i b : Nat) :
    i % 2 ^ (b + 1) = 2 ^ b * (i.testBit b).toNat + i % 2 ^ b := by
  rw [Nat.mod_pow_succ, Nat.toNat_testBit, Nat.add_comm]

/-- Replacing bit `b` leaves the bits above it and the bits below it. -/
theorem withBit_eq (i b : Nat) (v : Bool) :
    withBit i b v = 2 ^ (b + 1) * (i / 2 ^ (b + 1)) + (2 ^ b * v.toNat + i % 2 ^ b) := by
  have hi := Nat.div_add_mod i (2 ^ (b + 1))
  rw [mod_two_pow_succ_eq] at hi
  cases v <;> cases hbit : i.testBit b <;> simp [withBit, hbit] at hi ⊢ <;> omega

theorem two_pow_mul_toNat_add_mod_lt (i b : Nat) (v : Bool) :
    2 ^ b * v.toNat + i % 2 ^ b < 2 ^ (b + 1) := by
  have hmod : i % 2 ^ b < 2 ^ b := Nat.mod_lt i (Nat.two_pow_pos b)
  cases v <;> simp [Nat.pow_succ] <;> omega

theorem withBit_div (i b : Nat) (v : Bool) : withBit i b v / 2 ^ (b + 1) = i / 2 ^ (b + 1) := by
  rw [withBit_eq, Nat.mul_add_div (Nat.two_pow_pos _),
    Nat.div_eq_of_lt (two_pow_mul_toNat_add_mod_lt i b v), Nat.add_zero]

theorem withBit_mod (i b : Nat) (v : Bool) :
    withBit i b v % 2 ^ (b + 1) = 2 ^ b * v.toNat + i % 2 ^ b := by
  rw [withBit_eq, Nat.mul_add_mod, Nat.mod_eq_of_lt (two_pow_mul_toNat_add_mod_lt i b v)]

/-- The bits from `b` up are bit `b` and the bits above it. -/
theorem div_two_pow_mul_eq (i b : Nat) :
    i / 2 ^ b * 2 ^ b = i / 2 ^ (b + 1) * 2 ^ (b + 1) + 2 ^ b * (i.testBit b).toNat := by
  have hsucc := Nat.div_add_mod' i (2 ^ (b + 1))
  have hself := Nat.div_add_mod' i (2 ^ b)
  rw [mod_two_pow_succ_eq] at hsucc
  omega

/-! ### The exchange of index bits -/

/-- R91: a scalar stage exchanges bit `log2(k)` of the row number with that of the column number. On a row
whose bit is clear it is the lower result of the merge, on one whose bit is set the upper. -/
theorem scalarStage_getLsbD (k : BlockSize) (a : Rows) (r : Nat) {c : Nat} (hc : c < 32) :
    (scalarStage k a r).getLsbD c =
      (a (withBit r (blockLog2 k) (c.testBit (blockLog2 k)))).getLsbD
        (withBit c (blockLog2 k) (r.testBit (blockLog2 k))) := by
  cases hr : r.testBit (blockLog2 k) with
  | false =>
    have hmerge := merge_getLsbD k (a r) (a (r + blockSize k)) false hc
    rw [if_neg Bool.false_ne_true] at hmerge
    rw [scalarStage_of_clear hr, hmerge]
    cases c.testBit (blockLog2 k)
    · rw [withBit_eq_self hr, if_neg Bool.false_ne_true]
    · rw [withBit_true_of_clear hr, if_pos rfl, blockSize_eq_two_pow]
  | true =>
    have hmerge := merge_getLsbD k (a (r - blockSize k)) (a r) true hc
    rw [if_pos rfl] at hmerge
    rw [scalarStage_of_set hr, hmerge]
    cases c.testBit (blockLog2 k)
    · rw [withBit_false_of_set hr, if_neg Bool.false_ne_true, blockSize_eq_two_pow]
    · rw [withBit_eq_self hr, if_pos rfl]

/-- The matrix `a` is `m` with the bits from `b` up of the row number exchanged with those of the column
number. -/
def ExchangedFrom (b : Nat) (a m : Rows) : Prop :=
  ∀ r c, r < 32 → c < 32 →
    (a r).getLsbD c = (m (c / 2 ^ b * 2 ^ b + r % 2 ^ b)).getLsbD (r / 2 ^ b * 2 ^ b + c % 2 ^ b)

/-- No row or column number has a bit from 5 up. -/
theorem exchangedFrom_five (m : Rows) : ExchangedFrom 5 m m := by
  intro r c hr hc
  have hrow : c / 2 ^ 5 * 2 ^ 5 + r % 2 ^ 5 = r := by omega
  have hcolumn : r / 2 ^ 5 * 2 ^ 5 + c % 2 ^ 5 = c := by omega
  rw [hrow, hcolumn]

/-- Stage `k` adds the bit `log2(k)` to the bits exchanged. -/
theorem ExchangedFrom.stage {a m : Rows} (k : BlockSize) (h : ExchangedFrom (blockLog2 k + 1) a m) :
    ExchangedFrom (blockLog2 k) (scalarStage k a) m := by
  intro r c hr hc
  rw [scalarStage_getLsbD k a r hc,
    h _ _ (withBit_blockLog2_lt k hr _) (withBit_blockLog2_lt k hc _), withBit_div, withBit_div,
    withBit_mod, withBit_mod, ← Nat.add_assoc, ← Nat.add_assoc, ← div_two_pow_mul_eq,
    ← div_two_pow_mul_eq]

/-- After the stages 16 down to `k` the bits from `log2(k)` up are exchanged. -/
theorem scalarAfter_exchangedFrom (m : Rows) (k : BlockSize) :
    ExchangedFrom (blockLog2 k) (scalarAfter m k) m := by
  have h16 : ExchangedFrom 4 (scalarAfter m .k16) m := (exchangedFrom_five m).stage .k16
  have h8 : ExchangedFrom 3 (scalarAfter m .k8) m := h16.stage .k8
  have h4 : ExchangedFrom 2 (scalarAfter m .k4) m := h8.stage .k4
  have h2 : ExchangedFrom 1 (scalarAfter m .k2) m := h4.stage .k2
  have h1 : ExchangedFrom 0 (scalarAfter m .k1) m := h2.stage .k1
  cases k
  · exact h16
  · exact h8
  · exact h4
  · exact h2
  · exact h1

/-- `A_1` is the transpose. -/
theorem scalarAfter_k1_getLsbD (m : Rows) {r c : Nat} (hr : r < 32) (hc : c < 32) :
    (scalarAfter m .k1 r).getLsbD c = (m c).getLsbD r := by
  have h := scalarAfter_exchangedFrom m .k1 r c hr hc
  simpa [blockLog2, Nat.mod_one] using h

/-- Settles O43: one stage exchanges one index bit, the stages down to `k` all the bits from `log2(k)` up,
and those from bit 0 up are all of them. -/
theorem scalarStageExchangesOneIndexBit : Obligations.ScalarStageExchangesOneIndexBit := by
  refine ⟨fun k a r c _ hc => scalarStage_getLsbD k a r hc, fun k m r c hr hc => ?_,
    fun m r c => scalarAfter_k1_getLsbD m⟩
  rw [blockSize_eq_two_pow]
  exact scalarAfter_exchangedFrom m k r c hr hc

/-! ### The whole-word form of the contract -/

theorem getLsbD_one_shiftLeft (j c : Nat) :
    ((1 : Word) <<< j).getLsbD c = (decide (j < 32) && decide (j = c)) := by
  rw [← BitVec.getLsbD_twoPow, BitVec.twoPow_eq]
  rfl

/-- The OR of the columns below `n`, bit by bit: column `c` is there exactly when `c` is below `n`. -/
theorem foldl_column_getLsbD (m : Rows) (i c : Nat) {n : Nat} (hn : n ≤ 32) :
    ((List.range n).foldl
      (fun acc j => acc ||| (if (m j).getLsbD i then (1 : Word) <<< j else 0)) 0).getLsbD c =
        (decide (c < n) && (m c).getLsbD i) := by
  induction n with
  | zero => simp
  | succ n ih =>
    rw [List.range_succ, List.foldl_concat, BitVec.getLsbD_or, ih (Nat.le_of_succ_le hn)]
    have hcolumn : (if (m n).getLsbD i then (1 : Word) <<< n else 0).getLsbD c =
        (decide (n = c) && (m c).getLsbD i) := by
      rw [apply_ite (BitVec.getLsbD · c), getLsbD_one_shiftLeft, decide_eq_true (Nat.lt_of_succ_le hn)]
      by_cases hnc : n = c
      · simp [hnc]
      · simp [hnc]
    rw [hcolumn, ← Bool.and_or_distrib_right]
    congr 1
    simp only [← Bool.decide_or, decide_eq_decide]
    omega

/-- R85: bit `j` of row `i` of the transpose is bit `i` of row `j`. -/
theorem transposedRow_getLsbD (m : Rows) (i : Nat) {j : Nat} (hj : j < 32) :
    (transposedRow m i).getLsbD j = (m j).getLsbD i := by
  rw [transposedRow, foldl_column_getLsbD m i j (Nat.le_refl 32), decide_eq_true hj, Bool.true_and]

/-- A word is row `i` of the transpose exactly when its bits are those of column `i`. -/
theorem eq_transposedRow_iff (w : Word) (m : Rows) (i : Nat) :
    w = transposedRow m i ↔ ∀ j, j < 32 → w.getLsbD j = (m j).getLsbD i := by
  constructor
  · rintro rfl j hj
    exact transposedRow_getLsbD m i hj
  · refine fun h => BitVec.eq_of_getLsbD_eq fun j hj => ?_
    rw [h j hj, transposedRow_getLsbD m i hj]

theorem scalarAfter_k1_eq_transposedRow (m : Rows) {i : Nat} (hi : i < 32) :
    scalarAfter m .k1 i = transposedRow m i :=
  (eq_transposedRow_iff _ m i).mpr fun _ hj => scalarAfter_k1_getLsbD m hi hj

/-- The transpose looks at the 32 rows only. -/
theorem transposedRow_congr {m m' : Rows} (h : ∀ j, j < 32 → m j = m' j) (i : Nat) :
    transposedRow m i = transposedRow m' i :=
  (eq_transposedRow_iff _ m' i).mpr fun j hj => by rw [transposedRow_getLsbD m i hj, h j hj]

/-- R92: the transpose is its own inverse. -/
theorem transposedRow_transposedRow (m : Rows) {i : Nat} (hi : i < 32) :
    transposedRow (transposedRow m) i = m i :=
  ((eq_transposedRow_iff _ _ i).mpr fun j _ => (transposedRow_getLsbD m j hi).symm).symm

/-- R94: the transpose is linear over exclusive or. -/
theorem transposedRow_xor (m m' : Rows) (i : Nat) :
    transposedRow (fun j => m j ^^^ m' j) i = transposedRow m i ^^^ transposedRow m' i := by
  refine ((eq_transposedRow_iff _ _ i).mpr fun j hj => ?_).symm
  rw [BitVec.getLsbD_xor, BitVec.getLsbD_xor, transposedRow_getLsbD m i hj,
    transposedRow_getLsbD m' i hj]

end Sys2Proof.Machine
end

section
/-! The whole operation of 43_transpose on the machine: the contract (R85), two runs in a row (R92) and the
fixed points (R93). -/

namespace Sys2Proof.Machine

/-! ### The run of an idle engine -/

theorem exec_next (i : Instr) (s : State) : ∃ t, exec i s = .next t := by
  obtain ⟨_, _, hx⟩ | ⟨_, _, hx⟩ | ⟨-, hx⟩ := exec_cases i s <;> exact ⟨_, hx⟩

theorem storeVectors_wf (s : State) : (storeVectors s).mat.wf = true := Memory.ofRows_wf _

section
variable {s : State} (hidle : s.busy = false) (hscript : s.script = startOnly)
include hidle hscript

/-- The run stands before each of its 13 micro-operations in turn (R90). -/
theorem runAt_exists {n : Nat} (hn : n ≤ 12) : ∃ t, RunAt s n t := by
  induction n with
  | zero => exact ⟨_, runAt_start hidle hscript⟩
  | succ n ih =>
    obtain ⟨t, ht⟩ := ih (Nat.le_of_succ_le hn)
    have hlt : n < allInstrs.length := Nat.lt_of_succ_le (Nat.le_succ_of_le hn)
    obtain ⟨u, hx⟩ := exec_next allInstrs[n] t
    exact ⟨advance u, ht.next (Nat.lt_of_succ_le hn) (List.getElem?_eq_getElem hlt) hx⟩

/-- R85: the run ends idle with the transpose in the matrix buffer, in canonical form. -/
theorem run_transposes :
    ∃ t, run 14 s = .next t ∧ t.busy = false ∧ t.done = true ∧ t.mat.wf = true ∧
      ∀ i, i < 32 → t.mat.lookup i = transposedRow s.mat.lookup i := by
  obtain ⟨t, ht, hrows⟩ := run_store hidle hscript
  obtain ⟨u, hu, -⟩ := runAt_ilv hidle hscript
  have hlast := run_snoc hu.run_eq
    (step_store_completes hu.script hu.busy hu.step_eq (exec_store u))
  have hsame : t.completeSequencer = (storeVectors u).completeSequencer :=
    Host.Outcome.next.inj (ht.symm.trans hlast)
  refine ⟨t.completeSequencer, ht, rfl, rfl, ?_, fun i hi => ?_⟩
  · rw [hsame, State.completeSequencer_mat, storeVectors_wf]
  · rw [State.completeSequencer_mat, hrows i hi, scalarAfter_k1_eq_transposedRow _ hi]

end

/-- Settles O48: the run is busy before each of its 13 micro-operations and ends by `run_transposes`. -/
theorem transposeMeetsTheContract : Obligations.TransposeMeetsTheContract := by
  refine fun s hidle hscript => ⟨fun n hpos hn => ?_, ?_⟩
  · obtain ⟨n, rfl⟩ := Nat.exists_eq_add_of_le' hpos
    obtain ⟨u, hu⟩ := runAt_exists hidle hscript (n := n) (by omega)
    exact ⟨u, hu.run_eq, hu.busy⟩
  · obtain ⟨t, ht, hbusy, -, -, hrows⟩ := run_transposes hidle hscript
    refine ⟨t, ht, hbusy, fun i j hi hj => ?_, fun i hi => ?_⟩
    · rw [hrows i hi, transposedRow_getLsbD _ i hj]
    · rw [memRead_of_lt _ hi, hrows i hi]

/-! ### Fixed points -/

/-- The matrix equals its own mirror image across the diagonal. -/
def SymmetricMatrix (m : Rows) : Prop :=
  ∀ i j, i < 32 → j < 32 → (m i).getLsbD j = (m j).getLsbD i

/-- R93: the fixed points of the transpose are the symmetric matrices. -/
theorem transposedRow_eq_self_iff (m : Rows) :
    (∀ i, i < 32 → transposedRow m i = m i) ↔ SymmetricMatrix m := by
  simp only [eq_comm (b := m _), eq_transposedRow_iff]
  exact ⟨fun h i j hi hj => h i hi j hj, fun h i hi j hj => h i j hi hj⟩

theorem SymmetricMatrix.of_const {m : Rows} {w : Word} {v : Bool}
    (hw : ∀ j, j < 32 → w.getLsbD j = v) (h : ∀ i, i < 32 → m i = w) : SymmetricMatrix m := by
  intro i j hi hj
  rw [h i hi, h j hj, hw j hj, hw i hi]

theorem SymmetricMatrix.of_identity {m : Rows} (h : ∀ i, i < 32 → m i = (1 : Word) <<< i) :
    SymmetricMatrix m := by
  intro i j hi hj
  rw [h i hi, h j hj, getLsbD_one_shiftLeft, getLsbD_one_shiftLeft, decide_eq_true hi,
    decide_eq_true hj]
  simp only [eq_comm (a := i)]

/-- Settles O54: the rows after the run are the transpose, whose fixed points are the symmetric matrices;
the three matrices are symmetric, and the diagonal is its own mirror image. -/
theorem fixedPointsAreTheSymmetricMatrices : Obligations.FixedPointsAreTheSymmetricMatrices := by
  intro s hidle hscript
  obtain ⟨t, ht, -, -, -, hrows⟩ := run_transposes hidle hscript
  have hfixed : (∀ i, i < 32 → t.mat.lookup i = s.mat.lookup i) ↔ SymmetricMatrix s.mat.lookup := by
    rw [← transposedRow_eq_self_iff]
    exact forall₂_congr fun i hi => by rw [hrows i hi]
  refine ⟨t, ht, hfixed, fun h => hfixed.mpr ?_, fun i hi => ?_⟩
  · obtain hzero | hones | hidentity := h
    · exact .of_const (v := false) (by decide) hzero
    · exact .of_const (v := true) (by decide) hones
    · exact .of_identity hidentity
  · rw [hrows i hi, transposedRow_getLsbD _ i hi]

/-! ### The host's moves still to come, while it is silent -/

/-- No micro-operation reads or writes the moves still to come. -/
theorem exec_withScript {i : Instr} {s t : State} (h : exec i s = .next t) (ticks : List Tick) :
    exec i (s.withScript ticks) = .next (t.withScript ticks) := by
  cases i <;> cases h <;> rfl

theorem advance_withScript (s : State) (ticks : List Tick) :
    advance (s.withScript ticks) = (advance s).withScript ticks := by
  unfold advance
  rw [State.withScript_step]
  split <;> rfl

/-- A transition of the engine does not look at the moves still to come. -/
theorem engineTransition_withScript {s t : State} (h : engineTransition s = .next t)
    (ticks : List Tick) :
    engineTransition (s.withScript ticks) = .next (t.withScript ticks) := by
  obtain ⟨hidle, rfl⟩ | ⟨hbusy, cw, i, u, hfetch, hdecode, hx, rfl⟩ := engineTransition_cases s t h
  · simp [engineTransition, hidle]
  · rw [(decode_eq_instr_iff cw i).mp hdecode] at hfetch
    rw [← advance_withScript]
    exact engineTransition_of_fetch hbusy hfetch (exec_withScript hx ticks)

theorem engineTransition_script {s t : State} (h : engineTransition s = .next t) :
    t.script = s.script := by
  obtain ⟨-, rfl⟩ | ⟨-, -, i, u, -, -, hx, rfl⟩ := engineTransition_cases s t h
  · rfl
  · obtain ⟨-, -, -, hscript, -⟩ := exec_frame i s u hx
    rw [advance_frame, State.withSequencer_script, hscript]

/-- A silent tick placed is a transition of the engine. -/
theorem step_of_silentTick {s t : State} (h : engineTransition s = .next t) (rest : List Tick) :
    step (s.withScript (silentTick :: rest)) = .next (t.withScript rest) :=
  (step_of_hostMove _ .pass rest rfl).trans (engineTransition_withScript h rest)

/-! ### Runs one after the other -/

theorem exists_step_of_run_succ {n : Nat} {s u : State} (h : run (n + 1) s = .next u) :
    ∃ t, step s = .next t ∧ run n t = .next u := by
  obtain ⟨t, ht⟩ : ∃ t, step s = .next t := by
    simp only [run, Host.Core.run] at h
    split at h
    next t ht => exact ⟨t, ht⟩
    all_goals cases h
  exact ⟨t, ht, run_succ_of_step ht n ▸ h⟩

theorem run_add {m : Nat} {s t : State} (h : run m s = .next t) (n : Nat) :
    run (m + n) s = run n t := by
  induction m generalizing s with
  | zero =>
    cases h
    rw [Nat.zero_add]
  | succ m ih =>
    obtain ⟨u, hstep, hrest⟩ := exists_step_of_run_succ h
    rw [Nat.succ_add, run_succ_of_step hstep, ih hrest]

/-- A run with nothing placed is the same run with its silent ticks placed, whatever comes after them. -/
theorem run_silentTicks {n : Nat} {s t : State} (hscript : s.script = []) (h : run n s = .next t)
    (rest : List Tick) :
    run n (s.withScript (List.replicate n silentTick ++ rest)) = .next (t.withScript rest) := by
  induction n generalizing s with
  | zero =>
    cases h
    rfl
  | succ n ih =>
    obtain ⟨u, hstep, hrun⟩ := exists_step_of_run_succ h
    rw [step_of_silent s hscript] at hstep
    rw [List.replicate_succ, List.cons_append, run_succ_of_step (step_of_silentTick hstep _)]
    exact ih ((engineTransition_script hstep).trans hscript) hrun

/-- The run of an idle engine whose 13 silent ticks are placed, with the host's later moves after them. -/
theorem run_transposes_placed {s : State} {rest : List Tick} (hidle : s.busy = false)
    (hscript : s.script = startOnly ++ List.replicate 13 silentTick ++ rest) :
    ∃ t, run 14 s = .next t ∧ t.busy = false ∧ t.done = true ∧ t.script = rest ∧
      t.mat.wf = true ∧ ∀ i, i < 32 → t.mat.lookup i = transposedRow s.mat.lookup i := by
  obtain ⟨t, ht, hbusy, hdone, hwf, hrows⟩ :=
    run_transposes (s := s.withScript startOnly) hidle rfl
  have hsilent : run 13 (s.withScript []).startSequencer = .next t := by
    rw [← ht]
    exact (run_add (runAt_start (s := s.withScript startOnly) hidle rfl).run_eq 13).symm
  have hstart : step s = .next
      ((s.withScript []).startSequencer.withScript (List.replicate 13 silentTick ++ rest)) :=
    (step_of_hostMove s .start _ hscript).trans (hostStart_of_idle _ hidle)
  refine ⟨t.withScript rest, ?_, hbusy, hdone, rfl, hwf, hrows⟩
  rw [run_succ_of_step hstart]
  exact run_silentTicks rfl hsilent rest

/-- Settles O53: the second run starts idle on the first's result, and the transpose of the transpose is
the operand; beyond the 32 rows there is nothing to read. -/
theorem twoRunsRestoreTheMatrix : Obligations.TwoRunsRestoreTheMatrix := by
  intro s hidle hscript
  obtain ⟨t, ht, hidle', -, hscript', -, hrows⟩ := run_transposes_placed hidle hscript
  obtain ⟨u, hu, hbusy, hdone, hwf, hrows'⟩ := run_transposes hidle' hscript'
  have hrestored : ∀ i, i < 32 → u.mat.lookup i = s.mat.lookup i := fun i hi => by
    rw [hrows' i hi, transposedRow_congr hrows, transposedRow_transposedRow _ hi]
  refine ⟨u, (run_add ht 14).trans hu, hbusy, hdone, fun a => ?_, fun hcanonical => ?_⟩
  · by_cases ha : a < 32
    · rw [memRead_of_lt _ ha, memRead_of_lt _ ha, hrestored a ha]
    · rw [memRead_of_ge _ (Nat.not_lt.mp ha), memRead_of_ge _ (Nat.not_lt.mp ha)]
  · exact Memory.ext_of_wf u.mat s.mat hwf hcanonical hrestored

end Sys2Proof.Machine
end

section
/-! The linearity of every micro-operation and of the transform over exclusive or (43_transpose R94). -/

namespace Sys2Proof.Machine

/-! ### The exclusive or of two states -/

/-- The exclusive or of two vectors, lane by lane. -/
def xorLanes (a b : Lanes) : Lanes := Vector.ofFn fun l => a[l] ^^^ b[l]

theorem xorLanes_getElem (a b : Lanes) (l : Fin 16) : (xorLanes a b)[l] = a[l] ^^^ b[l] := by
  simp [xorLanes]

theorem xorLanes_ofFn (f g : Fin 16 → Word) :
    xorLanes (Vector.ofFn f) (Vector.ofFn g) = Vector.ofFn fun l => f l ^^^ g l := by
  simp [xorLanes]

theorem lookup_xorState (s t : State) {i : Nat} (hi : i < 32) :
    (xorState s t).mat.lookup i = s.mat.lookup i ^^^ t.mat.lookup i :=
  Memory.lookup_ofRows (fun i => s.mat.lookup i ^^^ t.mat.lookup i) i hi

theorem xorState_v0 (s t : State) : (xorState s t).v0 = xorLanes s.v0 t.v0 := rfl
theorem xorState_v1 (s t : State) : (xorState s t).v1 = xorLanes s.v1 t.v1 := rfl
theorem xorState_p0 (s t : State) : (xorState s t).p0 = xorLanes s.p0 t.p0 := rfl
theorem xorState_p1 (s t : State) : (xorState s t).p1 = xorLanes s.p1 t.p1 := rfl

theorem xorState_withV (s t : State) (a0 a1 b0 b1 : Lanes) :
    xorState (s.withV a0 a1) (t.withV b0 b1) =
      (xorState s t).withV (xorLanes a0 b0) (xorLanes a1 b1) := rfl

theorem xorState_withP (s t : State) (a0 a1 b0 b1 : Lanes) :
    xorState (s.withP a0 a1) (t.withP b0 b1) =
      (xorState s t).withP (xorLanes a0 b0) (xorLanes a1 b1) := rfl

theorem xorState_withMat (s t : State) (m n : Memory) :
    xorState (s.withMat m) (t.withMat n) =
      (xorState s t).withMat (Memory.ofRows fun i => m.lookup i ^^^ n.lookup i) := rfl

theorem cat_xorState (s t : State) (p : Idx5) : (xorState s t).cat p = s.cat p ^^^ t.cat p := by
  simp only [State.cat, xorState_v0, xorState_v1, xorLanes_getElem]
  split <;> rfl

theorem rowOfVectors_xorLanes (a0 a1 b0 b1 : Lanes) (i : Nat) :
    rowOfVectors (xorLanes a0 b0) (xorLanes a1 b1) i =
      rowOfVectors a0 a1 i ^^^ rowOfVectors b0 b1 i := by
  simp only [rowOfVectors, xorLanes_getElem]
  split <;> rfl

/-! ### The shared operations -/

/-- The operation takes the exclusive or of two states to that of its results. -/
def XorLinear (f : State → State) : Prop := ∀ s t, f (xorState s t) = xorState (f s) (f t)

theorem xorLinear_loadVectors : XorLinear loadVectors := by
  intro s t
  simp only [loadVectors, xorState_withV, xorLanes_ofFn,
    lookup_xorState s t (effectiveRow_lt _ _)]

theorem xorLinear_permute (a0 a1 : IndexArray) : XorLinear (permute a0 a1) := by
  intro s t
  simp only [permute, xorState_withP, xorLanes_ofFn, cat_xorState]

theorem mergeLo_xor (k : BlockSize) (a b a' b' : Word) :
    mergeLo k (a ^^^ a') (b ^^^ b') = mergeLo k a b ^^^ mergeLo k a' b' :=
  merge_xor k a b a' b' false

theorem mergeHi_xor (k : BlockSize) (a b a' b' : Word) :
    mergeHi k (a ^^^ a') (b ^^^ b') = mergeHi k a b ^^^ mergeHi k a' b' :=
  merge_xor k a b a' b' true

theorem xorLinear_merge (k : BlockSize) : XorLinear (merge k) := by
  intro s t
  simp only [merge, xorState_withV, xorLanes_ofFn, xorState_p0, xorState_p1, xorLanes_getElem,
    mergeLo_xor, mergeHi_xor]

theorem xorLinear_storeVectors : XorLinear storeVectors := by
  intro s t
  simp only [storeVectors, xorState_withMat, xorState_p0, xorState_p1]
  refine congrArg (xorState s t).withMat (Memory.ofRows_congr _ _ fun i hi => ?_)
  rw [rowOfVectors_xorLanes, Memory.lookup_ofRows _ i hi, Memory.lookup_ofRows _ i hi]

/-! ### The micro-operations -/

/-- Every micro-operation is one of four shared operations on the whole state. -/
theorem instr_kinds (i : Instr) :
    i = .load ∨ (∃ k, i = swzOf k) ∨ (∃ k, i = mrgOf k) ∨ i = .ilv ∨ i = .store :=
  match i with
  | .load => .inl rfl
  | .swz16 => .inr (.inl ⟨.k16, rfl⟩)
  | .swz8 => .inr (.inl ⟨.k8, rfl⟩)
  | .swz4 => .inr (.inl ⟨.k4, rfl⟩)
  | .swz2 => .inr (.inl ⟨.k2, rfl⟩)
  | .swz1 => .inr (.inl ⟨.k1, rfl⟩)
  | .mrg16 => .inr (.inr (.inl ⟨.k16, rfl⟩))
  | .mrg8 => .inr (.inr (.inl ⟨.k8, rfl⟩))
  | .mrg4 => .inr (.inr (.inl ⟨.k4, rfl⟩))
  | .mrg2 => .inr (.inr (.inl ⟨.k2, rfl⟩))
  | .mrg1 => .inr (.inr (.inl ⟨.k1, rfl⟩))
  | .ilv => .inr (.inr (.inr (.inl rfl)))
  | .store => .inr (.inr (.inr (.inr rfl)))

/-- A micro-operation always answers with a linear operation on the state. -/
theorem exec_xorLinear (i : Instr) : ∃ f, XorLinear f ∧ ∀ s, exec i s = .next (f s) := by
  obtain rfl | ⟨k, rfl⟩ | ⟨k, rfl⟩ | rfl | rfl := instr_kinds i
  · exact ⟨_, xorLinear_loadVectors, exec_load⟩
  · exact ⟨_, xorLinear_permute _ _, exec_swzOf k⟩
  · exact ⟨_, xorLinear_merge k, exec_mrgOf k⟩
  · exact ⟨_, xorLinear_permute _ _, exec_ilv⟩
  · exact ⟨_, xorLinear_storeVectors, exec_store⟩

/-- Settles O55: a micro-operation is one linear operation on every state, and the run leaves the
transpose, which is linear. -/
theorem everyStepIsLinearOverXor : Obligations.EveryStepIsLinearOverXor := by
  constructor
  · intro i s t s' t' hs ht
    obtain ⟨f, hlinear, hf⟩ := exec_xorLinear i
    rw [hf] at hs ht
    cases hs
    cases ht
    rw [hf, hlinear]
  · intro s u x hs hu hx hs' hu' hx' hxor
    obtain ⟨s₁, hrun, -, -, -, hrows⟩ := run_transposes hs hs'
    obtain ⟨u₁, hrunU, -, -, -, hrowsU⟩ := run_transposes hu hu'
    obtain ⟨x₁, hrunX, -, -, -, hrowsX⟩ := run_transposes hx hx'
    refine ⟨s₁, u₁, x₁, hrun, hrunU, hrunX, fun i hi => ?_⟩
    rw [hrowsX i hi, hrows i hi, hrowsU i hi, transposedRow_congr hxor, transposedRow_xor]

end Sys2Proof.Machine
end

section
/-! Any family of index arrays that meets the pairing requirement (41_swizzle R67, 43_transpose R95). -/

namespace Sys2Proof.Machine

/-- Two vectors hold the rows of `a` at the positions a lane-to-row map gives. -/
def HoldsRowsAt (a0 a1 : Lanes) (a : Rows) (rows : RowsAt) : Prop :=
  ∀ l : Fin 16, a0[l] = a (rows (positionOf 0 l)) ∧ a1[l] = a (rows (positionOf 1 l))

/-- A position is that of its `lane` field in the vector its `d` field names (30_encoding R51). -/
theorem positionOf_fields (p : Idx5) :
    positionOf (if idxVector p then 1 else 0) (idxLane p) = p := by
  decide +revert

theorem HoldsRowsAt.cat_eq {s : State} {a : Rows} {rows : RowsAt}
    (h : HoldsRowsAt s.v0 s.v1 a rows) (p : Idx5) : s.cat p = a (rows p) := by
  obtain ⟨hlower, hupper⟩ := h (idxLane p)
  conv_rhs => rw [← positionOf_fields p]
  rw [State.cat]
  split
  next => exact hupper
  next => exact hlower

theorem movedRows_positionOf (arrays : IndexArray × IndexArray) (rows : RowsAt) (l : Fin 16) :
    movedRows arrays rows (positionOf 0 l) = rows arrays.1[l] ∧
      movedRows arrays rows (positionOf 1 l) = rows arrays.2[l] := by
  simp [movedRows, idxVector_positionOf_zero, idxVector_positionOf_one, idxLane_positionOf]

/-- A permutation moves the rows as it moves the lane-to-row map. -/
theorem HoldsRowsAt.permute {s : State} {a : Rows} {rows : RowsAt}
    (h : HoldsRowsAt s.v0 s.v1 a rows) (arrays : IndexArray × IndexArray) :
    HoldsRowsAt (permute arrays.1 arrays.2 s).p0 (permute arrays.1 arrays.2 s).p1 a
      (movedRows arrays rows) := by
  intro l
  obtain ⟨hlower, hupper⟩ := movedRows_positionOf arrays rows l
  rw [permute_p0, permute_p1, h.cat_eq, h.cat_eq, hlower, hupper]
  exact ⟨rfl, rfl⟩

theorem pairedFor_iff (k : BlockSize) (rows : RowsAt) :
    pairedFor k rows = true ↔ ∀ l : Fin 16,
      rows (positionOf 1 l) = rows (positionOf 0 l) + blockSize k ∧
        (rows (positionOf 0 l)).testBit (blockLog2 k) = false := by
  simp [pairedFor]

theorem ascending_iff (rows : RowsAt) :
    ascending rows = true ↔ ∀ l : Fin 16,
      rows (positionOf 0 l) = l.val ∧ rows (positionOf 1 l) = 16 + l.val := by
  simp [ascending]

/-- The pairing requirement of stage `k` is what its merge needs to do the scalar stage (R67). -/
theorem HoldsRowsAt.merge {s : State} {a : Rows} {rows : RowsAt} {k : BlockSize}
    (h : HoldsRowsAt s.p0 s.p1 a rows) (hpaired : pairedFor k rows = true) :
    HoldsRowsAt (merge k s).v0 (merge k s).v1 (scalarStage k a) rows := by
  intro l
  obtain ⟨hrow, hclear⟩ := (pairedFor_iff k rows).mp hpaired l
  obtain ⟨h0, h1⟩ := h l
  rw [hrow] at h1 ⊢
  exact merge_eq_scalarStage hclear h0 h1

/-- The stages `ks` with the index arrays of a family. -/
def stagesWith (family : BlockSize → IndexArray × IndexArray) (ks : List BlockSize) (s : State) :
    State :=
  ks.foldl (fun t k => merge k (permute (family k).1 (family k).2 t)) s

theorem stagesWith_cons (family : BlockSize → IndexArray × IndexArray) (k : BlockSize)
    (ks : List BlockSize) (s : State) :
    stagesWith family (k :: ks) s =
      stagesWith family ks (merge k (permute (family k).1 (family k).2 s)) := by
  rw [stagesWith, List.foldl_cons, stagesWith]

theorem transposeWith_eq (family : BlockSize → IndexArray × IndexArray)
    (final : IndexArray × IndexArray) (s : State) :
    transposeWith family final s =
      storeVectors (permute final.1 final.2 (stagesWith family stageOrder (loadVectors s))) := rfl

/-- The stages of any family that meets its pairing requirements do the scalar stages. -/
theorem HoldsRowsAt.stages {family : BlockSize → IndexArray × IndexArray} {ks : List BlockSize}
    {s : State} {a : Rows} {rows rows' : RowsAt} (h : HoldsRowsAt s.v0 s.v1 a rows)
    (hpairs : pairRows family ks rows = some rows') :
    HoldsRowsAt (stagesWith family ks s).v0 (stagesWith family ks s).v1
      (ks.foldl (fun x k => scalarStage k x) a) rows' := by
  induction ks generalizing s a rows with
  | nil =>
    cases hpairs
    exact h
  | cons k ks ih =>
    rw [pairRows] at hpairs
    split at hpairs
    next hpaired =>
      have hmerged := (h.permute (family k)).merge hpaired
      rw [stagesWith_cons, List.foldl_cons]
      exact ih hmerged hpairs
    next => cases hpairs

theorem loadVectors_holdsRowsAt (s : State) :
    HoldsRowsAt (loadVectors s).v0 (loadVectors s).v1 s.mat.lookup fun p => p.toNat := by
  obtain ⟨hv0, hv1, -⟩ := loadVectors_spec s
  intro l
  rw [← cat_positionOf_zero, ← cat_positionOf_one, cat_eq_of_rows hv0 hv1, cat_eq_of_rows hv0 hv1]
  exact ⟨rfl, rfl⟩

/-- From prepared vectors that hold the rows in ascending order, `STORE` writes each row at its index. -/
theorem lookup_storeVectors_of_ascending {s : State} {a : Rows} {rows : RowsAt}
    (h : HoldsRowsAt s.p0 s.p1 a rows) (hasc : ascending rows = true) {i : Nat} (hi : i < 32) :
    (storeVectors s).mat.lookup i = a i := by
  obtain ⟨hlower, hupper, -, -⟩ := storeVectors_spec s
  obtain ⟨l, rfl⟩ | ⟨l, rfl⟩ := row_cases i hi
  · rw [hlower, (h l).1, ((ascending_iff rows).mp hasc l).1]
  · rw [hupper, (h l).2, ((ascending_iff rows).mp hasc l).2]

/-- The five stages in their order leave `A_1` (42_merge R83). -/
theorem foldl_scalarStage_stageOrder (m : Rows) :
    stageOrder.foldl (fun x k => scalarStage k x) m = scalarAfter m .k1 := rfl

theorem familyFits_iff (family : BlockSize → IndexArray × IndexArray)
    (final : IndexArray × IndexArray) :
    familyFits family final = true ↔ ∃ rows,
      pairRows family stageOrder (fun p => p.toNat) = some rows ∧
        ascending (movedRows final rows) = true := by
  unfold familyFits
  split
  next rows hrows => simp [hrows]
  next hnone => simp [hnone]

/-- R95: whatever route the rows took through the lanes, what is stored is `A_1`. -/
theorem lookup_transposeWith {family : BlockSize → IndexArray × IndexArray}
    {final : IndexArray × IndexArray} (hfits : familyFits family final = true) (s : State) {i : Nat}
    (hi : i < 32) : (transposeWith family final s).mat.lookup i = transposedRow s.mat.lookup i := by
  obtain ⟨rows, hpairs, hasc⟩ := (familyFits_iff family final).mp hfits
  have hstages := (loadVectors_holdsRowsAt s).stages hpairs
  rw [foldl_scalarStage_stageOrder] at hstages
  rw [← scalarAfter_k1_eq_transposedRow _ hi, transposeWith_eq]
  exact lookup_storeVectors_of_ascending (hstages.permute final) hasc hi

theorem transposeWith_wf (family : BlockSize → IndexArray × IndexArray)
    (final : IndexArray × IndexArray) (s : State) : (transposeWith family final s).mat.wf = true := by
  rw [transposeWith_eq]
  exact storeVectors_wf _

/-- The machine's own arrays are such a family (R66, R67). -/
theorem familyFits_romFamily : familyFits romFamily (ilvP0, ilvP1) = true := by decide

/-- Settles O58: a fitting family stores the transpose, the machine's arrays fit, and a run leaves the
transpose too; both buffers are canonical, so they are equal. -/
theorem anyPairedFamilyTransposes : Obligations.AnyPairedFamilyTransposes := by
  refine ⟨fun family final s hfits i hi => lookup_transposeWith hfits s hi, familyFits_romFamily,
    fun s hidle hscript => ?_⟩
  obtain ⟨t, ht, -, -, hwf, hrows⟩ := run_transposes hidle hscript
  refine ⟨t, ht, Memory.ext_of_wf _ _ hwf (transposeWith_wf _ _ s) fun i hi => ?_⟩
  rw [hrows i hi, lookup_transposeWith familyFits_romFamily s hi]

end Sys2Proof.Machine
end

section
/-! The host's side of the interface: the matrix space as the host writes and reads it (20_memory R30), its
row accesses and status reads (R42), and the reset input (70_reset R113 to R115). -/

namespace Sys2Proof.Machine

/-! ### The matrix space -/

theorem memWrite_of_lt (m : Memory) {i : Nat} (hi : i < 32) (w : Word) :
    memWrite m i w = some (m.put i w) :=
  if_pos ((rowIndexWf_iff i).mpr hi)

/-- Beyond the 32 rows there is nothing to write (95 X5). -/
theorem memWrite_of_ge (m : Memory) {i : Nat} (hi : 32 ≤ i) (w : Word) : memWrite m i w = none :=
  if_neg fun h => absurd ((rowIndexWf_iff i).mp h) (Nat.not_lt.mpr hi)

theorem memRead_put_same {m : Memory} (h : m.wf = true) {i : Nat} (hi : i < 32) (w : Word) :
    memRead (m.put i w) i = some w := by
  rw [memRead_of_lt _ hi, Memory.lookup_put_same m i w h]

theorem memRead_put_other (m : Memory) {i j : Nat} (hne : j ≠ i) (w : Word) :
    memRead (m.put i w) j = memRead m j := by
  rw [memRead, memRead, Memory.lookup_put_other m i j w hne]

/-- Buffers that agree on the 32 rows cannot be told apart by reading. -/
theorem memRead_congr {m m' : Memory} (h : ∀ i, i < 32 → m.lookup i = m'.lookup i) (a : Nat) :
    memRead m a = memRead m' a := by
  by_cases ha : a < 32
  · rw [memRead_of_lt m ha, memRead_of_lt m' ha, h a ha]
  · rw [memRead_of_ge m (Nat.not_lt.mp ha), memRead_of_ge m' (Nat.not_lt.mp ha)]

/-- Settles O28: below 32 both are defined and the laws of `put` apply; from 32 on neither is. -/
theorem rowReadAfterWrite : Obligations.RowReadAfterWrite := by
  refine fun m i w hwf => ⟨fun hi => ?_, fun hi => ⟨memRead_of_ge m hi, memWrite_of_ge m hi w⟩⟩
  exact ⟨m.put i w, memWrite_of_lt m hi w, Memory.put_wf m i w hwf hi, memRead_put_same hwf hi w,
    fun j hj => memRead_put_other m hj w⟩

/-! ### The host's row accesses -/

theorem hostWrite_of_busy (s : State) (hb : s.busy = true) (i : Nat) (w : Word) :
    hostWrite i w s = .refused .rowWriteWhileBusy := by
  simp [hostWrite, hb]

theorem hostWrite_of_ge (s : State) (hb : s.busy = false) {i : Nat} (hi : 32 ≤ i) (w : Word) :
    hostWrite i w s = .refused (.noSuchRow i) := by
  simp [hostWrite, hb, memWrite_of_ge s.mat hi w]

theorem hostWrite_of_lt (s : State) (hb : s.busy = false) {i : Nat} (hi : i < 32) (w : Word) :
    hostWrite i w s = .next (s.withMat (s.mat.put i w)) := by
  simp [hostWrite, hb, memWrite_of_lt s.mat hi w]

theorem hostRead_of_busy (s : State) (hb : s.busy = true) (i : Nat) :
    hostRead i s = .refused .rowReadWhileBusy := by
  simp [hostRead, hb]

theorem hostRead_of_ge (s : State) (hb : s.busy = false) {i : Nat} (hi : 32 ≤ i) :
    hostRead i s = .refused (.noSuchRow i) := by
  simp [hostRead, hb, memRead_of_ge s.mat hi]

theorem hostRead_of_lt (s : State) (hb : s.busy = false) {i : Nat} (hi : i < 32) :
    hostRead i s = .next (s.withAnswer (.row (s.mat.lookup i))) := by
  simp [hostRead, hb, memRead_of_lt s.mat hi]

/-- Settles O29: the step is the row access on the rest of the script, whose three cases are those of
`hostWrite` and of `hostRead`. -/
theorem hostRowAccessWhenIdle : Obligations.HostRowAccessWhenIdle := by
  refine fun s i w rest hwf => ⟨fun hs => ?_, fun hs => ?_⟩
  · have hstep : step s = hostWrite i w (s.withScript rest) := step_of_hostMove s _ rest hs
    rw [hstep]
    refine ⟨fun hb => hostWrite_of_busy (s.withScript rest) hb i w,
      fun hb hi => hostWrite_of_ge (s.withScript rest) hb hi w,
      fun hb hi => ⟨_, hostWrite_of_lt (s.withScript rest) hb hi w, ?_, fun j hj => ?_, rfl⟩⟩
    · exact memRead_put_same hwf hi w
    · exact memRead_put_other s.mat hj w
  · have hstep : step s = hostRead i (s.withScript rest) := step_of_hostMove s _ rest hs
    rw [hstep]
    exact ⟨fun hb => hostRead_of_busy (s.withScript rest) hb i,
      fun hb hi => hostRead_of_ge (s.withScript rest) hb hi,
      fun hb hi => ⟨s.mat.lookup i, memRead_of_lt s.mat hi, hostRead_of_lt (s.withScript rest) hb hi⟩⟩

/-- Settles O30: neither status read has a precondition. -/
theorem statusReadsAreAlwaysAllowed : Obligations.StatusReadsAreAlwaysAllowed :=
  fun s rest => ⟨step_of_hostMove s .readBusy rest, step_of_hostMove s .readDone rest⟩

/-! ### The reset input -/

/-- Reset wins over the move that falls together with it (70_reset R113). -/
theorem step_of_reset (s : State) (m : HostMove) (rest : List Tick)
    (hs : s.script = { reset := true, move := m } :: rest) :
    step s = .next (resetEngine (s.withScript rest)) := by
  simp [step, transition, hs, runTick]

/-- Settles O35: the step is the reset transition, whatever the move and the state. -/
theorem resetWinsOverEverything : Obligations.ResetWinsOverEverything := by
  intro s m rest hs
  obtain ⟨hbusy, hdone, hstep, hmat, hscript, hanswer⟩ := resetEngine_spec (s.withScript rest)
  exact ⟨_, step_of_reset s m rest hs, hbusy, hdone, hstep, hmat, hanswer, hscript⟩

/-- Settles O36. -/
theorem resetLeavesTheSequencerIdle : Obligations.ResetLeavesTheSequencerIdle := ⟨rfl, rfl, rfl⟩

end Sys2Proof.Machine
end

section
/-! What a step can do to the control state and to the matrix buffer, each said once, and the rules of the
whole machine that follow (10_state R16, R17; 20_memory R36, R42; 70_reset R124). -/

namespace Sys2Proof.Machine

@[simp] theorem advance_mat (s : State) : (advance s).mat = s.mat := by
  rw [advance_frame, State.withSequencer_mat]
@[simp] theorem advance_script (s : State) : (advance s).script = s.script := by
  rw [advance_frame, State.withSequencer_script]
@[simp] theorem advance_answer (s : State) : (advance s).answer = s.answer := by
  rw [advance_frame, State.withSequencer_answer]

/-! ### The control state and its step -/

/-- What control depends on: the sequencer and the host's moves still to come. -/
structure Control where
  busy : Bool
  done : Bool
  step : BitVec 4
  script : List Tick

def State.control (s : State) : Control :=
  { busy := s.busy, done := s.done, step := s.step, script := s.script }

/-- The engine's own transition, seen from control: busy it advances, idle it stays (10_state R17). -/
def Control.engine (c : Control) : Control :=
  if c.busy then
    if c.step = 12 then { c with busy := false, done := true, step := 0 }
    else { c with step := c.step + 1 }
  else c

/-- One tick of the interface, seen from control: a host that reads or writes leaves it alone. -/
def Control.tick (k : Tick) (c : Control) : Control :=
  if k.reset then { c with busy := false, done := false, step := 0 }
  else
    match k.move with
    | .pass => c.engine
    | .start => { c with busy := true, done := false, step := 0 }
    | _ => c

/-- One step, seen from control. No data enters. -/
def Control.next (c : Control) : Control :=
  match c.script with
  | [] => c.engine
  | k :: rest => Control.tick k { c with script := rest }

theorem advance_control (s : State) (hb : s.busy = true) : (advance s).control = s.control.engine := by
  obtain ⟨hlast, h⟩ | ⟨hnot, h⟩ := advance_cases s
  · rw [h]
    simp [State.control, Control.engine, hb, hlast]
  · rw [h]
    simpa [State.control, Control.engine, hb] using hnot

theorem exec_control {i : Instr} {s t : State} (h : exec i s = .next t) : t.control = s.control := by
  obtain ⟨hbusy, hdone, hstep, hscript, -⟩ := exec_frame i s t h
  rw [State.control, State.control, hbusy, hdone, hstep, hscript]

theorem engineTransition_control {s t : State} (h : engineTransition s = .next t) :
    t.control = s.control.engine := by
  obtain ⟨hidle, rfl⟩ | ⟨hbusy, -, i, u, -, -, hx, rfl⟩ := engineTransition_cases s t h
  · simp [State.control, Control.engine, hidle]
  · have hu : u.busy = true := (exec_frame i s u hx).1.trans hbusy
    rw [advance_control u hu, exec_control hx]

theorem hostMove_control {m : HostMove} {s t : State} (h : hostMove m s = .next t) :
    t.control = Control.tick { reset := false, move := m } s.control := by
  obtain ⟨rfl, he⟩ | ⟨rfl, -, rfl⟩ | ⟨i, w, m', rfl, -, -, rfl⟩ | ⟨i, w, rfl, -, -, rfl⟩ | ⟨rfl, rfl⟩ |
    ⟨rfl, rfl⟩ := hostMove_cases m s t h
  · exact engineTransition_control he
  all_goals rfl

/-- Control steps on its own: what a step makes of it depends on it alone. -/
theorem step_control {s t : State} (h : step s = .next t) : t.control = s.control.next := by
  obtain ⟨hs, he⟩ | ⟨⟨r, m⟩, rest, hs, rfl, rfl⟩ | ⟨⟨r, m⟩, rest, hs, rfl, hm⟩ := step_cases s t h
  · rw [engineTransition_control he, Control.next]
    simp [State.control, hs]
  · simp [Control.next, Control.tick, State.control, hs, resetEngine]
  · rw [hostMove_control hm, Control.next]
    simp [State.control, hs]

/-! ### The matrix buffer -/

/-- The word of `STORE` stands at step 12 of `SEQ_ROM` only. -/
theorem step_of_fetch_store {s : State} (h : fetch s = some (encode .store)) : s.step = 12 := by
  have hplace : ∀ n : BitVec 4, seqRom[n.toNat]? = some (encode .store) → n = 12 := by decide
  exact hplace s.step h

/-- The engine writes the matrix buffer by `STORE` at step 12 only (20_memory R36). -/
theorem engineTransition_mat {s t : State} (h : engineTransition s = .next t) :
    t.mat = s.mat ∨ (s.busy = true ∧ s.step = 12 ∧ t.mat = (storeVectors s).mat) := by
  obtain ⟨-, rfl⟩ | ⟨hbusy, cw, i, u, hfetch, hdecode, hx, rfl⟩ := engineTransition_cases s t h
  · exact .inl rfl
  · rw [advance_mat]
    obtain ⟨a0, a1, he⟩ | ⟨a0, a1, he⟩ | ⟨rfl, he⟩ := exec_cases i s
    all_goals
      rw [he] at hx
      cases hx
    · exact .inl rfl
    · exact .inl rfl
    · rw [(decode_eq_instr_iff cw .store).mp hdecode] at hfetch
      exact .inr ⟨hbusy, step_of_fetch_store hfetch, rfl⟩

/-- What `STORE` writes does not depend on the moves still to come. -/
theorem storeVectors_withScript_mat (s : State) (ticks : List Tick) :
    (storeVectors (s.withScript ticks)).mat = (storeVectors s).mat := by
  simp only [storeVectors, State.withMat_mat, State.withScript_p0, State.withScript_p1]

/-- The host lets the engine step: nothing is placed, or a silent tick. -/
def State.hostSilent (s : State) : Prop := s.script = [] ∨ ∃ rest, s.script = silentTick :: rest

/-- What a step can do to the matrix buffer: nothing, `STORE` at step 12, or the host's write. -/
theorem step_mat_cases {s t : State} (h : step s = .next t) :
    t.mat = s.mat ∨
      (s.busy = true ∧ s.step = 12 ∧ s.hostSilent ∧ t.mat = (storeVectors s).mat) ∨
      (s.busy = false ∧ ∃ i w rest, s.script = { reset := false, move := .writeRow i w } :: rest ∧
        i < 32 ∧ t.mat = s.mat.put i w) := by
  obtain ⟨hs, he⟩ | ⟨k, rest, hs, hk, rfl⟩ | ⟨⟨r, m⟩, rest, hs, rfl, hm⟩ := step_cases s t h
  · obtain hsame | ⟨hbusy, hlast, hstored⟩ := engineTransition_mat he
    · exact .inl hsame
    · exact .inr (.inl ⟨hbusy, hlast, .inl hs, hstored⟩)
  · obtain ⟨-, -, -, hmat, -⟩ := resetEngine_spec (s.withScript rest)
    exact .inl hmat
  · obtain ⟨rfl, he⟩ | ⟨-, -, rfl⟩ | ⟨i, w, m', rfl, hidle, hw, rfl⟩ | ⟨-, -, -, -, -, rfl⟩ |
      ⟨-, rfl⟩ | ⟨-, rfl⟩ := hostMove_cases m _ t hm
    · obtain hsame | ⟨hbusy, hlast, hstored⟩ := engineTransition_mat he
      · exact .inl hsame
      · rw [storeVectors_withScript_mat] at hstored
        exact .inr (.inl ⟨hbusy, hlast, .inr ⟨rest, hs⟩, hstored⟩)
    · exact .inl rfl
    · by_cases hi : i < 32
      · rw [memWrite_of_lt _ hi] at hw
        cases hw
        exact .inr (.inr ⟨hidle, i, w, rest, hs, hi, rfl⟩)
      · rw [memWrite_of_ge _ (Nat.not_lt.mp hi)] at hw
        cases hw
    all_goals exact .inl rfl

/-- Every step keeps the matrix buffer canonical. -/
theorem step_keeps_mat_wf {s t : State} (h : step s = .next t) (hwf : s.mat.wf = true) :
    t.mat.wf = true := by
  obtain hsame | ⟨-, -, -, hstored⟩ | ⟨-, i, w, -, -, hi, hput⟩ := step_mat_cases h
  · rw [hsame, hwf]
  · rw [hstored, storeVectors_wf]
  · rw [hput, Memory.put_wf s.mat i w hwf hi]

/-! ### The invariant -/

/-- The part of `State.legal` that speaks of control. -/
structure Control.Legal (c : Control) : Prop where
  step_le : c.step.toNat ≤ 12
  step_of_idle : c.busy = false → c.step = 0
  done_of_busy : c.busy = true → c.done = false

theorem State.legal_iff (s : State) : s.legal = true ↔ s.control.Legal ∧ s.mat.wf = true := by
  have hcontrol : s.control.Legal ↔
      s.step.toNat ≤ 12 ∧ (s.busy = false → s.step = 0) ∧ (s.busy = true → s.done = false) :=
    ⟨fun ⟨hle, hidle, hdone⟩ => ⟨hle, hidle, hdone⟩, fun ⟨hle, hidle, hdone⟩ => ⟨hle, hidle, hdone⟩⟩
  rw [hcontrol]
  cases hb : s.busy <;> simp [State.legal, hb]

theorem Control.Legal.engine {c : Control} (h : c.Legal) : c.engine.Legal := by
  obtain ⟨hle, hidle, hdone⟩ := h
  unfold Control.engine
  split
  next hbusy =>
    split
    next => exact ⟨Nat.zero_le 12, fun _ => rfl, nofun⟩
    next hnot =>
      have hsucc : (c.step + 1).toNat ≤ 12 := by bv_omega
      exact ⟨hsucc, fun hfalse => absurd (hbusy.symm.trans hfalse) (by decide), hdone⟩
  next => exact ⟨hle, hidle, hdone⟩

theorem Control.Legal.tick {c : Control} (h : c.Legal) (k : Tick) : (Control.tick k c).Legal := by
  unfold Control.tick
  split
  next => exact ⟨Nat.zero_le 12, fun _ => rfl, nofun⟩
  next =>
    split
    next => exact h.engine
    next => exact ⟨Nat.zero_le 12, nofun, fun _ => rfl⟩
    next => exact h

theorem Control.Legal.next {c : Control} (h : c.Legal) : c.next.Legal := by
  have hrest (rest : List Tick) : Control.Legal { c with script := rest } := ⟨h.1, h.2, h.3⟩
  unfold Control.next
  split
  next => exact h.engine
  next k rest _ => exact (hrest rest).tick k

/-- Settles O38: the sequencer by the step of control, the buffer by `step_keeps_mat_wf`. -/
theorem everyStepKeepsTheStateLegal : Obligations.EveryStepKeepsTheStateLegal := by
  intro s t hs h
  obtain ⟨hcontrol, hwf⟩ := s.legal_iff.mp hs
  refine t.legal_iff.mpr ⟨?_, step_keeps_mat_wf h hwf⟩
  rw [step_control h]
  exact hcontrol.next

/-- Settles O37. -/
theorem resetStateIsLegal : Obligations.ResetStateIsLegal :=
  State.reset.legal_iff.mpr ⟨⟨Nat.zero_le 12, fun _ => rfl, nofun⟩, Memory.wf_nil⟩

/-- Settles O40: of the three things a step can do to the buffer, the first changes no row and the third
no row but the one written. -/
theorem rowsChangeOnlyByStoreOrHostWrite : Obligations.RowsChangeOnlyByStoreOrHostWrite := by
  intro s t i h hchanged
  obtain hsame | ⟨hbusy, hlast, hsilent, -⟩ | ⟨hidle, j, w, rest, hs, -, hput⟩ := step_mat_cases h
  · exact absurd (by rw [hsame]) hchanged
  · exact .inl ⟨hbusy, hlast, hsilent⟩
  · by_cases hij : i = j
    · exact .inr ⟨hidle, w, rest, hij ▸ hs⟩
    · rw [hput, memRead_put_other s.mat hij] at hchanged
      exact absurd rfl hchanged

/-! ### When a step goes on -/

theorem goesOn_next (s : State) : goesOn (.next s) := ⟨s, rfl⟩

theorem not_goesOn_refused (r : Refusal) : ¬ goesOn (.refused r) := nofun

/-- At the 13 legal values of `step` the word of a micro-operation is fetched. -/
theorem fetch_of_le {s : State} (h : s.step.toNat ≤ 12) : ∃ i, fetch s = some (encode i) := by
  have hlt : s.step.toNat < allInstrs.length := Nat.lt_succ_of_le h
  refine ⟨allInstrs[s.step.toNat], ?_⟩
  rw [fetch, seqRom_eq_map_encode, List.getElem?_map, List.getElem?_eq_getElem hlt, Option.map_some]

/-- A busy engine at a step above 12 has no word to fetch (93 U12). -/
theorem engineTransition_of_gt {s : State} (hb : s.busy = true) (h : 13 ≤ s.step.toNat) :
    engineTransition s = .refused (.noSuchStep s.step.toNat) := by
  have hnone : fetch s = none := List.getElem?_eq_none h
  simp [engineTransition, hb, hnone]

theorem engineTransition_of_idle {s : State} (hb : s.busy = false) : engineTransition s = .next s := by
  simp [engineTransition, hb]

/-- Nothing stops the engine but a `step` above 12 while it is busy. -/
theorem goesOn_engineTransition_iff (s : State) :
    goesOn (engineTransition s) ↔ (s.busy = true → s.step.toNat ≤ 12) := by
  cases hb : s.busy with
  | false =>
    rw [engineTransition_of_idle hb]
    exact ⟨fun _ => nofun, fun _ => goesOn_next s⟩
  | true =>
    by_cases hle : s.step.toNat ≤ 12
    · obtain ⟨i, hfetch⟩ := fetch_of_le hle
      obtain ⟨u, hx⟩ := exec_next i s
      rw [engineTransition_of_fetch hb hfetch hx]
      exact ⟨fun _ _ => hle, fun _ => goesOn_next _⟩
    · rw [engineTransition_of_gt hb (Nat.not_le.mp hle)]
      exact ⟨fun h => absurd h (not_goesOn_refused _), fun h => absurd (h rfl) hle⟩

theorem goesOn_hostStart_iff (s : State) : goesOn (hostStart s) ↔ s.busy = false := by
  cases hb : s.busy with
  | false => simp [hostStart_of_idle s hb, goesOn_next]
  | true => simp [hostStart_of_busy s hb, not_goesOn_refused]

theorem goesOn_hostWrite_iff (i : Nat) (w : Word) (s : State) :
    goesOn (hostWrite i w s) ↔ s.busy = false ∧ i < 32 := by
  cases hb : s.busy with
  | true => simp [hostWrite_of_busy s hb, not_goesOn_refused]
  | false =>
    by_cases hi : i < 32
    · simp [hostWrite_of_lt s hb hi, goesOn_next, hi]
    · simp [hostWrite_of_ge s hb (Nat.not_lt.mp hi), not_goesOn_refused, hi]

theorem goesOn_hostRead_iff (i : Nat) (s : State) :
    goesOn (hostRead i s) ↔ s.busy = false ∧ i < 32 := by
  cases hb : s.busy with
  | true => simp [hostRead_of_busy s hb, not_goesOn_refused]
  | false =>
    by_cases hi : i < 32
    · simp [hostRead_of_lt s hb hi, goesOn_next, hi]
    · simp [hostRead_of_ge s hb (Nat.not_lt.mp hi), not_goesOn_refused, hi]

/-- A tick goes on where the host keeps to 20_memory R42 and, where the engine is let step, it can. -/
theorem goesOn_runTick_iff (k : Tick) (s : State) :
    goesOn (runTick k s) ↔
      k.allowed s = true ∧ (k = silentTick → s.busy = true → s.step.toNat ≤ 12) := by
  obtain ⟨reset, m⟩ := k
  cases reset with
  | true => simp [runTick, goesOn_next, Tick.allowed, silentTick]
  | false =>
    cases m with
    | pass => simp [runTick, hostMove, goesOn_engineTransition_iff, Tick.allowed, silentTick]
    | start => simp [runTick, hostMove, goesOn_hostStart_iff, Tick.allowed, silentTick]
    | writeRow i w =>
      simp [runTick, hostMove, goesOn_hostWrite_iff, Tick.allowed, silentTick, rowIndexWf_iff]
    | readRow i =>
      simp [runTick, hostMove, goesOn_hostRead_iff, Tick.allowed, silentTick, rowIndexWf_iff]
    | readBusy => simp [runTick, hostMove, hostReadBusy, goesOn_next, Tick.allowed, silentTick]
    | readDone => simp [runTick, hostMove, hostReadDone, goesOn_next, Tick.allowed, silentTick]

/-- A step goes on where the host keeps to 20_memory R42 and, where the engine is let step, it can. -/
theorem goesOn_step_iff (s : State) :
    goesOn (step s) ↔
      s.hostKeepsRules = true ∧ (s.hostSilent → s.busy = true → s.step.toNat ≤ 12) := by
  unfold step transition State.hostKeepsRules State.hostSilent
  cases s.script with
  | nil => simp [goesOn_engineTransition_iff]
  | cons k rest => simp [goesOn_runTick_iff, Tick.allowed]

/-- Settles O39: in a legal state the engine can always step, so the host's rules decide. -/
theorem onlyHostMisuseStopsTheMachine : Obligations.OnlyHostMisuseStopsTheMachine := by
  intro s hs
  obtain ⟨hcontrol, -⟩ := s.legal_iff.mp hs
  rw [goesOn_step_iff]
  exact and_iff_left fun _ _ => hcontrol.step_le

/-- Settles O41: what decides whether a step goes on is control, and control steps on its own. -/
theorem controlDoesNotDependOnData : Obligations.ControlDoesNotDependOnData := by
  intro s s' hbusy hdone hstep hscript
  have hsame : s.control = s'.control := by
    rw [State.control, State.control, hbusy, hdone, hstep, hscript]
  constructor
  · simp only [goesOn_step_iff, State.hostKeepsRules, State.hostSilent, Tick.allowed, hbusy, hstep,
      hscript]
  · intro t t' ht ht'
    have hnext : t.control = t'.control := by
      rw [step_control ht, step_control ht', hsame]
    exact ⟨congrArg Control.busy hnext, congrArg Control.done hnext, congrArg Control.step hnext,
      congrArg Control.script hnext⟩

end Sys2Proof.Machine
end

section
/-! The transition of the engine with a silent host (10_state R17), the forms nothing can reach (93 U3, U12),
and the state prepared to run one word. -/

namespace Sys2Proof.Machine

/-! ### The step of the decoded micro-operation -/

/-- An idle engine with a silent host stays as it is but for the silent tick taken. -/
theorem step_of_idle_silent {s : State} (hb : s.busy = false)
    (hs : s.script = [] ∨ s.script = [silentTick]) : step s = .next (s.withScript []) := by
  obtain hs | hs := hs
  · rw [step_of_silent s hs, engineTransition_of_idle hb, State.withScript, ← hs]
  · exact (step_of_hostMove s .pass [] hs).trans (engineTransition_of_idle hb)

/-- The advance written out, on a state whose `step` is known. -/
theorem advance_eq_ite {t : State} {n : BitVec 4} (hn : t.step = n) :
    advance t = if n = 12 then { t with busy := false, done := true, step := 0 }
      else { t with step := n + 1 } := by
  subst hn
  rfl

theorem step_of_busy_silent {s t : State} {i : Instr} (hs : s.script = []) (hb : s.busy = true)
    (hf : fetch s = some (encode i)) (hx : exec i s = .next t) : step s = .next (advance t) :=
  (step_of_silent s hs).trans (engineTransition_of_fetch hb hf hx)

/-- Settles O32: a word that decodes is the encoding of what it decodes to, and the micro-operation leaves
`step` for the advance to see. -/
theorem stepRunsTheDecodedInstruction : Obligations.StepRunsTheDecodedInstruction := by
  refine ⟨fun s hs hb => step_of_idle_silent hb hs, fun s t cw i hs hb hf hd hx => ?_,
    fun s hs hb hle => ?_⟩
  · obtain ⟨-, -, hkept, -⟩ := exec_frame i s t hx
    rw [(decode_eq_instr_iff cw i).mp hd] at hf
    rw [step_of_busy_silent hs hb hf hx, advance_eq_ite hkept]
  · obtain ⟨i, hf⟩ := fetch_of_le hle
    obtain ⟨t, hx⟩ := exec_next i s
    obtain ⟨-, -, hkept, -⟩ := exec_frame i s t hx
    refine ⟨encode i, i, t, advance t, hf, decode_encode i, hx, step_of_busy_silent hs hb hf hx, ?_⟩
    obtain ⟨hlast, hadvance⟩ | ⟨hnot, hadvance⟩ := advance_cases t
    · exact .inl ⟨hkept ▸ hlast, by rw [hadvance, State.completeSequencer_step]⟩
    · rw [hkept] at hnot hadvance
      refine .inr ⟨hnot, ?_⟩
      rw [hadvance, State.withSequencer_step]
      bv_omega

/-! ### What nothing can reach -/

/-- Settles O33: there is no word to fetch above step 12, and an ill-formed word decodes as reserved. -/
theorem unreachableFormsAreRefused : Obligations.UnreachableFormsAreRefused := by
  refine ⟨fun s hs hb hgt => ?_, fun cw s hwf => ?_⟩
  · rw [step_of_silent s hs, engineTransition_of_gt hb hgt]
  · obtain ⟨r, hr⟩ := (exists_decode_eq_reserved_iff cw).mpr hwf
    rw [runWord, hr]

/-! ### The state prepared to run one word -/

/-- The number of a micro-operation's word in the opcode table stands for that word. -/
theorem tableWord_encode (i : Instr) : tableWord 8 (encode i).toNat = some (encode i) := by
  rw [tableWord, if_pos ⟨rfl, (encode i).isLt⟩, BitVec.ofNat_toNat, BitVec.setWidth_eq]

/-- The place of a micro-operation's word in `SEQ_ROM` (30_encoding R55). -/
theorem seqRom_seqIndexOf (i : Instr) :
    seqIndexOf (encode i) < 13 ∧ seqRom[seqIndexOf (encode i)]? = some (encode i) := by
  cases i <;> decide

theorem seqIndexOf_eq_last_iff (i : Instr) :
    BitVec.ofNat 4 (seqIndexOf (encode i)) = 12 ↔ i = .store := by
  cases i <;> decide

theorem withFetchWord_encode (i : Instr) (s : State) :
    s.withFetchWord 8 (encode i).toNat =
      { s with busy := true, step := BitVec.ofNat 4 (seqIndexOf (encode i)), script := [] } := by
  rw [State.withFetchWord, tableWord_encode]
  simp only [(seqRom_seqIndexOf i).1, if_true]

theorem fetch_withFetchWord (i : Instr) (s : State) :
    fetch (s.withFetchWord 8 (encode i).toNat) = some (encode i) := by
  obtain ⟨hlt, hword⟩ := seqRom_seqIndexOf i
  have hn : (BitVec.ofNat 4 (seqIndexOf (encode i))).toNat = seqIndexOf (encode i) := by
    rw [BitVec.toNat_ofNat]
    omega
  rw [fetch, withFetchWord_encode, hn, hword]

/-- Settles O34: the prepared state fetches the word, and its step is the last one for `STORE` alone. -/
theorem fetchWordRunsItsInstruction : Obligations.FetchWordRunsItsInstruction := by
  intro i s
  have hprepared := withFetchWord_encode i s
  have hs : (s.withFetchWord 8 (encode i).toNat).script = [] := by rw [hprepared]
  have hb : (s.withFetchWord 8 (encode i).toNat).busy = true := by rw [hprepared]
  have hn : (s.withFetchWord 8 (encode i).toNat).step = BitVec.ofNat 4 (seqIndexOf (encode i)) := by
    rw [hprepared]
  obtain ⟨t, hx⟩ := exec_next i (s.withFetchWord 8 (encode i).toNat)
  obtain ⟨-, -, hkept, -⟩ := exec_frame i _ t hx
  refine ⟨t, hx, ?_⟩
  rw [step_of_busy_silent hs hb (fetch_withFetchWord i s) hx, advance_eq_ite rfl, hkept, hn]
  simp only [seqIndexOf_eq_last_iff]

end Sys2Proof.Machine
end

section
/-! Several engines do not interfere (60_exceptions R108, R109). -/

namespace Sys2Proof.Machine

/-- A step of engine `n` is its own step, put back in its place; a number that names no engine steps
nothing. -/
theorem stepEngine_eq_next_iff (n : Nat) (es es' : Engines) :
    stepEngine n es = .next es' ↔
      (es[n]? = none ∧ es' = es) ∨ ∃ s t, es[n]? = some s ∧ step s = .next t ∧ es' = es.set n t := by
  unfold stepEngine
  cases es[n]? with
  | none => simp [eq_comm]
  | some s => cases hstep : step s <;> simp [hstep, eq_comm]

/-- The step of one engine leaves every other as it was. -/
theorem stepEngine_getElem?_ne {n k : Nat} {es es' : Engines} (h : stepEngine n es = .next es')
    (hne : k ≠ n) : es'[k]? = es[k]? := by
  obtain ⟨-, rfl⟩ | ⟨s, t, -, -, rfl⟩ := (stepEngine_eq_next_iff n es es').mp h
  · rfl
  · exact List.getElem?_set_ne hne.symm

/-- Two engines' steps may be exchanged. -/
theorem stepEngine_comm {n m : Nat} (hne : n ≠ m) {es es₁ es₂ : Engines}
    (hn : stepEngine n es = .next es₁) (hm : stepEngine m es₁ = .next es₂) :
    ∃ es₁', stepEngine m es = .next es₁' ∧ stepEngine n es₁' = .next es₂ := by
  have hunmoved : es₁[m]? = es[m]? := stepEngine_getElem?_ne hn hne.symm
  obtain ⟨hnone, rfl⟩ | ⟨s', t', hs', hstep', rfl⟩ := (stepEngine_eq_next_iff m es₁ es₂).mp hm
  · rw [hunmoved] at hnone
    exact ⟨es, (stepEngine_eq_next_iff m es es).mpr (.inl ⟨hnone, rfl⟩), hn⟩
  · rw [hunmoved] at hs'
    have hm' : stepEngine m es = .next (es.set m t') :=
      (stepEngine_eq_next_iff m es _).mpr (.inr ⟨s', t', hs', hstep', rfl⟩)
    have hunmoved' : (es.set m t')[n]? = es[n]? := stepEngine_getElem?_ne hm' hne
    refine ⟨es.set m t', hm', (stepEngine_eq_next_iff n _ _).mpr ?_⟩
    rw [hunmoved']
    obtain ⟨hnone, rfl⟩ | ⟨s, t, hs, hstep, rfl⟩ := (stepEngine_eq_next_iff n es es₁).mp hn
    · exact .inl ⟨hnone, rfl⟩
    · exact .inr ⟨s, t, hs, hstep, List.set_comm _ _ hne⟩

theorem runEngines_cons_iff (n : Nat) (rest : List Nat) (es es' : Engines) :
    runEngines (n :: rest) es = .next es' ↔
      ∃ es₁, stepEngine n es = .next es₁ ∧ runEngines rest es₁ = .next es' := by
  rw [runEngines]
  cases stepEngine n es <;> simp

/-- Schedules that are permutations of each other end in the same engines. -/
theorem runEngines_perm {order order' : List Nat} (h : order.Perm order') :
    ∀ {es es' : Engines}, runEngines order es = .next es' → runEngines order' es = .next es' := by
  induction h with
  | nil => exact id
  | cons n _ ih =>
    intro es es' hrun
    obtain ⟨es₁, hn, hrest⟩ := (runEngines_cons_iff n _ es es').mp hrun
    exact (runEngines_cons_iff n _ es es').mpr ⟨es₁, hn, ih hrest⟩
  | swap n m rest =>
    intro es es' hrun
    by_cases hne : m = n
    · exact hne ▸ hrun
    · obtain ⟨es₁, hm, hrun₁⟩ := (runEngines_cons_iff m _ es es').mp hrun
      obtain ⟨es₂, hn, hrest⟩ := (runEngines_cons_iff n _ es₁ es').mp hrun₁
      obtain ⟨es₁', hn', hm'⟩ := stepEngine_comm hne hm hn
      exact (runEngines_cons_iff n _ es es').mpr
        ⟨es₁', hn', (runEngines_cons_iff m _ es₁' es').mpr ⟨es₂, hm', hrest⟩⟩
  | trans _ _ ih ih' => exact fun hrun => ih' (ih hrun)

/-- Settles O42. -/
theorem enginesDoNotInterfere : Obligations.EnginesDoNotInterfere := by
  refine ⟨fun es n s t hs hstep => ?_, fun _ _ _ _ hperm => runEngines_perm hperm⟩
  have hmoved : stepEngine n es = .next (es.set n t) :=
    (stepEngine_eq_next_iff n es _).mpr (.inr ⟨s, t, hs, hstep, rfl⟩)
  obtain ⟨hlt, -⟩ := List.getElem?_eq_some_iff.mp hs
  exact ⟨es.set n t, hmoved, List.length_set, List.getElem?_set_self hlt,
    fun k hk => stepEngine_getElem?_ne hmoved hk⟩

end Sys2Proof.Machine
end

section
/-! The assembly text (30_encoding R58, R59), words of the opcode map written out (R53), and the closed
forms of the index arrays (10_state R23, R24; 41_swizzle R66, R67). -/

namespace Sys2Proof.Machine

/-! ### The opcode map and the index arrays -/

/-- Settles O1: each is the word the encoder gives. -/
theorem decodeOfWrittenOutWords : Obligations.DecodeOfWrittenOutWords :=
  ⟨decode_encode .load, decode_encode .swz16, decode_encode .swz1, decode_encode .mrg8,
    decode_encode .ilv, decode_encode .store⟩

/-- The closed form of `SWZ_P0[k]` and `SWZ_P1[k]` (10_state R23). -/
theorem swz_toNat (k : BlockSize) (l : Fin 16) :
    ((swzP0 k)[l].toNat =
        if k = .k16 then l.val
        else 16 * (l.val / blockSize k % 2) + withBit l.val (blockLog2 k) false) ∧
      (swzP1 k)[l].toNat =
        if k = .k16 then 16 + l.val
        else 16 * (l.val / blockSize k % 2) + withBit l.val (blockLog2 k) true := by
  cases k <;> decide +revert

/-- The closed form of `ILV_P0` and `ILV_P1` (10_state R24). -/
theorem ilv_toNat (l : Fin 16) :
    ilvP0[l].toNat = 16 * (l.val % 2) + l.val / 2 ∧
      ilvP1[l].toNat = 16 * (l.val % 2) + 8 + l.val / 2 := by
  decide +revert

/-- Settles O8. -/
theorem indexArraysEqualTheirClosedForms : Obligations.IndexArraysEqualTheirClosedForms :=
  ⟨swz_toNat, ilv_toNat, indexPairWf_swz, indexPairWf_ilv⟩

/-- Composing the interleave's arrays with the map after stage 1 gives ascending order (R66). -/
theorem rowAt_rowMap_ilv (l : Fin 16) :
    rowAt (rowMap .k1) ilvP0[l] = effectiveRow 0 l ∧
      rowAt (rowMap .k1) ilvP1[l] = effectiveRow 1 l := by
  decide +revert

/-- Settles O9: the two compositions vector by vector, the pairing of the map, and the family's check. -/
theorem indexArraysMeetThePairingRequirement :
    Obligations.IndexArraysMeetThePairingRequirement := by
  refine ⟨fun k d l => ?_, fun d l => ?_, fun k l => ⟨rowMap_one k l, testBit_rowMap_zero k l⟩,
    familyFits_romFamily⟩
  · match d with
    | 0 => exact (rowAt_swz k l).1
    | 1 => exact (rowAt_swz k l).2
  · match d with
    | 0 => exact (rowAt_rowMap_ilv l).1
    | 1 => exact (rowAt_rowMap_ilv l).2

/-! ### The assembly text -/

/-- A text without a dash stays when the comment after it is taken off. -/
theorem stripComment_append {text : List Char} (h : '-' ∉ text) (comment : List Char) :
    stripComment (text ++ '-' :: '-' :: comment) = text := by
  induction text with
  | nil => rfl
  | cons c cs ih =>
    rw [List.cons_append, stripComment, ih (List.not_mem_of_not_mem_cons h)]
    rintro rest rfl
    exact absurd List.mem_cons_self h

/-- A text without a dash holds no comment. -/
theorem stripComment_of_not_mem {text : List Char} (h : '-' ∉ text) : stripComment text = text := by
  induction text with
  | nil => rfl
  | cons c cs ih =>
    rw [stripComment, ih (List.not_mem_of_not_mem_cons h)]
    rintro rest rfl
    exact absurd List.mem_cons_self h

/-- A line that is not blank stands for what the table holds at its text. -/
theorem assembleLine_of_text {line text : List Char} (htext : trimBlanks (stripComment line) = text)
    (hne : text ≠ []) :
    assembleLine line = (lineTable.find? (fun e => e.1 == text)).map (·.2) := by
  rw [assembleLine, htext]
  split
  next => exact absurd rfl hne
  next => rfl

theorem mnemonic_no_dash (i : Instr) : '-' ∉ mnemonic i := by
  cases i <;> decide

theorem pseudoText_no_dash (p : Pseudo) : '-' ∉ pseudoText p := by
  obtain k | _ := p
  · cases k <;> decide
  · decide

/-- A mnemonic has no blank around it, and one blank after it does not count. -/
theorem trimBlanks_mnemonic (i : Instr) :
    trimBlanks (mnemonic i) = mnemonic i ∧ trimBlanks (mnemonic i ++ [' ']) = mnemonic i := by
  cases i <;> exact ⟨rfl, rfl⟩

theorem trimBlanks_pseudoText (p : Pseudo) : trimBlanks (pseudoText p) = pseudoText p := by
  obtain k | _ := p
  · cases k <;> rfl
  · rfl

theorem lineTable_mnemonic (i : Instr) :
    (lineTable.find? (fun e => e.1 == mnemonic i)).map (·.2) = some [i] := by
  cases i <;> rfl

theorem lineTable_pseudoText (p : Pseudo) :
    (lineTable.find? (fun e => e.1 == pseudoText p)).map (·.2) = some (expand p) := by
  obtain k | _ := p
  · cases k <;> rfl
  · rfl

theorem mnemonic_ne_nil (i : Instr) : mnemonic i ≠ [] := by
  cases i <;> exact nofun

theorem pseudoText_ne_nil (p : Pseudo) : pseudoText p ≠ [] := by
  obtain k | _ := p
  · cases k <;> exact nofun
  · exact nofun

theorem assembleLine_mnemonic {line : List Char} {i : Instr}
    (htext : trimBlanks (stripComment line) = mnemonic i) : assembleLine line = some [i] := by
  rw [assembleLine_of_text htext (mnemonic_ne_nil i), lineTable_mnemonic]

/-- Settles O5: with its comment and the blank taken off a line is its table entry's text. -/
theorem assemblyLinesStandForInstructions : Obligations.AssemblyLinesStandForInstructions := by
  refine ⟨fun i comment => ⟨assembleLine_mnemonic ?_, assembleLine_mnemonic ?_⟩, fun p => ?_⟩
  · rw [stripComment_of_not_mem (mnemonic_no_dash i), (trimBlanks_mnemonic i).1]
  · have hblank : '-' ∉ mnemonic i ++ [' '] := by simp [mnemonic_no_dash i]
    rw [List.append_cons, stripComment_append hblank, (trimBlanks_mnemonic i).2]
  · have htext : trimBlanks (stripComment (pseudoText p)) = pseudoText p := by
      rw [stripComment_of_not_mem (pseudoText_no_dash p), trimBlanks_pseudoText]
    rw [assembleLine_of_text htext (pseudoText_ne_nil p), lineTable_pseudoText]

end Sys2Proof.Machine
end

section
/-! The micro-operations on whole matrices: `LOAD` and `STORE` together (95 LS6), `MRG1` (42_merge R82) and
`STAGE k` (43_transpose R87). -/

namespace Sys2Proof.Machine

/-- Settles O27: what `STORE` writes are the lanes that `LOAD` filled from the same rows. -/
theorem loadThenStoreKeepsEveryRow : Obligations.LoadThenStoreKeepsEveryRow := by
  intro s
  refine ⟨loadVectors s, _, exec_load s, exec_store _, memRead_congr fun i hi => ?_⟩
  obtain ⟨hv0, hv1, -⟩ := loadVectors_spec s
  obtain ⟨hlower, hupper, -⟩ :=
    storeVectors_spec ((loadVectors s).withP (loadVectors s).v0 (loadVectors s).v1)
  obtain ⟨l, rfl⟩ | ⟨l, rfl⟩ := row_cases i hi
  · rw [hlower, State.withP_p0, hv0]
  · rw [hupper, State.withP_p1, hv1]

/-- Settles O22: the rule of every `MRGk` at block size 1, whose lower rows are the even ones. -/
theorem mrg1ExchangesSingleBits : Obligations.Mrg1ExchangesSingleBits := by
  refine ⟨⟨rfl, rfl⟩, fun s => ?_⟩
  obtain ⟨t, hx, hlanes, hframe, hmat, hrows⟩ := mrgOf_spec .k1 rfl rfl s
  simp only [rowMap_k1_zero] at hrows
  exact ⟨t, hx, hlanes, hframe, hmat, hrows⟩

/-- Settles O45: `SWZk` moves the rows to `ROW_k`, where `MRGk` does the scalar stage. -/
theorem stageAppliesTheScalarStage : Obligations.StageAppliesTheScalarStage := by
  intro k a s hrows
  have hswizzled := permute_swz_holdsRows k (s := s) (row := a) hrows
  exact ⟨_, _, exec_swzOf k s, exec_mrgOf k _, merge_holdsRows k hswizzled⟩

end Sys2Proof.Machine
end

section
/-! The scalar stages commute (43_transpose R99). -/

namespace Sys2Proof.Machine

/-- Replacing bit `b` leaves every other bit. -/
theorem testBit_withBit_eq (i b : Nat) (v : Bool) (n : Nat) :
    (withBit i b v).testBit n = if n = b then v else i.testBit n := by
  by_cases hn : n = b
  · rw [hn, testBit_withBit, if_pos rfl]
  · rw [if_neg hn]
    obtain hlow | hhigh := Nat.lt_or_gt_of_ne hn
    · have hmod : withBit i b v % 2 ^ b = i % 2 ^ b := by
        rw [withBit_eq, Nat.pow_succ, Nat.mul_assoc, ← Nat.add_assoc, ← Nat.mul_add,
          Nat.mul_add_mod, Nat.mod_mod]
      have hbit := congrArg (fun x => Nat.testBit x n) hmod
      simpa [Nat.testBit_mod_two_pow, hlow] using hbit
    · obtain ⟨m, rfl⟩ := Nat.exists_eq_add_of_lt hhigh
      have hdiv := congrArg (fun x => Nat.testBit x m) (withBit_div i b v)
      simpa [Nat.testBit_div_two_pow, Nat.add_comm, Nat.add_left_comm, Nat.add_assoc] using hdiv

theorem testBit_withBit_ne {b n : Nat} (hn : n ≠ b) (i : Nat) (v : Bool) :
    (withBit i b v).testBit n = i.testBit n := by
  rw [testBit_withBit_eq, if_neg hn]

theorem withBit_comm {b b' : Nat} (hne : b ≠ b') (i : Nat) (v v' : Bool) :
    withBit (withBit i b v) b' v' = withBit (withBit i b' v') b v := by
  refine Nat.eq_of_testBit_eq fun n => ?_
  simp only [testBit_withBit_eq]
  by_cases hb : n = b
  · rw [if_pos hb, if_neg (hb ▸ hne), if_pos hb]
  · rw [if_neg hb, if_neg hb]

theorem blockLog2_injective {j k : BlockSize} (h : blockLog2 j = blockLog2 k) : j = k := by
  have hsize : blockSize j = blockSize k := by rw [blockSize_eq_two_pow, blockSize_eq_two_pow, h]
  have hj := (blockSizeOf_eq_some_iff _ j).mpr rfl
  rw [hsize, (blockSizeOf_eq_some_iff _ k).mpr rfl] at hj
  exact (Option.some.inj hj).symm

/-- Two stages exchange two different index bits, so their order does not matter. -/
theorem scalarStage_comm (j k : BlockSize) (a : Rows) :
    scalarStage j (scalarStage k a) = scalarStage k (scalarStage j a) := by
  by_cases hjk : j = k
  · rw [hjk]
  · have hbits : blockLog2 j ≠ blockLog2 k := fun h => hjk (blockLog2_injective h)
    funext r
    refine BitVec.eq_of_getLsbD_eq fun c hc => ?_
    rw [scalarStage_getLsbD j _ r hc, scalarStage_getLsbD k _ r hc,
      scalarStage_getLsbD k _ _ (withBit_blockLog2_lt j hc _),
      scalarStage_getLsbD j _ _ (withBit_blockLog2_lt k hc _),
      testBit_withBit_ne hbits, testBit_withBit_ne hbits, testBit_withBit_ne hbits.symm,
      testBit_withBit_ne hbits.symm, withBit_comm hbits r, withBit_comm hbits c]

/-- The stages in any order do what they do in the order of the sequence. -/
theorem foldl_scalarStage_of_perm {order : List BlockSize} (h : order.Perm stageOrder) (a : Rows) :
    order.foldl (fun x k => scalarStage k x) a = scalarAfter a .k1 := by
  rw [← foldl_scalarStage_stageOrder]
  exact h.foldl_eq' (fun j _ k _ x => scalarStage_comm k j x) a

/-- Settles O44: commuting stages may be put in the order of the sequence, which transposes. -/
theorem scalarStagesCommute : Obligations.ScalarStagesCommute := by
  refine ⟨fun j k a r _ => by rw [scalarStage_comm], fun order a r hperm hr => ?_⟩
  rw [foldl_scalarStage_of_perm hperm, scalarAfter_k1_eq_transposedRow a hr]

end Sys2Proof.Machine
end

section
/-! The run of the machine whatever the host does meanwhile: its 13 steps (43_transpose R90), status reads
(20_memory R42) and a reset (70_reset R115) during it, what it does not depend on (10_state R15), and the
one-transition view (43_transpose R88). -/

namespace Sys2Proof.Machine

/-! ### Control along a run -/

/-- Control runs on its own. -/
theorem run_control {n : Nat} {s t : State} (h : run n s = .next t) :
    t.control = Control.next^[n] s.control := by
  induction n generalizing s with
  | zero =>
    cases h
    rfl
  | succ n ih =>
    obtain ⟨u, hstep, hrest⟩ := exists_step_of_run_succ h
    rw [ih hrest, step_control hstep, Function.iterate_succ_apply]

/-- Control of a busy engine before step `n`, the host silent. -/
def busyControl (n : Nat) : Control :=
  { busy := true, done := false, step := BitVec.ofNat 4 n, script := [] }

/-- Control of an engine whose run has just ended, the host silent. -/
def completedControl : Control := { busy := false, done := true, step := 0, script := [] }

theorem next_busyControl {n : Nat} (hn : n < 12) : (busyControl n).next = busyControl (n + 1) := by
  have hnot : BitVec.ofNat 4 n ≠ 12 := by bv_omega
  calc
    (busyControl n).next = { busyControl n with step := BitVec.ofNat 4 n + 1 } := if_neg hnot
    _ = busyControl (n + 1) :=
      congrArg (fun x => { busyControl n with step := x }) (BitVec.ofNat_add n 1).symm

theorem iterate_next_busyControl {n : Nat} (hn : n ≤ 12) :
    Control.next^[n] (busyControl 0) = busyControl n := by
  induction n with
  | zero => rfl
  | succ n ih =>
    rw [Function.iterate_succ_apply', ih (Nat.le_of_succ_le hn), next_busyControl hn]

theorem iterate_next_completes : Control.next^[13] (busyControl 0) = completedControl := by
  rw [Function.iterate_succ_apply', iterate_next_busyControl (Nat.le_refl 12)]
  rfl

/-! ### The run after its start -/

/-- The state just started, with nothing else placed. -/
def State.started (s : State) : State := (s.withScript []).startSequencer

theorem started_control (s : State) : s.started.control = busyControl 0 := rfl

theorem step_start {s : State} {rest : List Tick} (hidle : s.busy = false)
    (hscript : s.script = startOnly ++ rest) : step s = .next (s.started.withScript rest) :=
  (step_of_hostMove s .start rest hscript).trans (hostStart_of_idle _ hidle)

/-- A run of a start and nothing else is the run of the started state. -/
theorem run_startOnly {s : State} (hidle : s.busy = false) (hscript : s.script = startOnly) (n : Nat) :
    run (n + 1) s = run n s.started :=
  run_succ_of_step (step_start (rest := []) hidle hscript) n

theorem run_of_idle_silent {s : State} (hb : s.busy = false) (hs : s.script = []) (n : Nat) :
    run n s = .next s := by
  induction n with
  | zero => rfl
  | succ n ih =>
    have hstep : step s = .next s := (step_of_silent s hs).trans (engineTransition_of_idle hb)
    rw [run_succ_of_step hstep, ih]

theorem engineTransition_answer {s t : State} (h : engineTransition s = .next t) :
    t.answer = s.answer := by
  obtain ⟨-, rfl⟩ | ⟨-, -, i, u, -, -, hx, rfl⟩ := engineTransition_cases s t h
  · rfl
  · obtain ⟨-, -, -, -, hanswer, -⟩ := exec_frame i s u hx
    rw [advance_answer, hanswer]

/-- A run with a silent host hands nothing back. -/
theorem run_silent_answer {n : Nat} {s t : State} (hs : s.script = []) (h : run n s = .next t) :
    t.answer = s.answer := by
  induction n generalizing s with
  | zero =>
    cases h
    rfl
  | succ n ih =>
    obtain ⟨u, hstep, hrest⟩ := exists_step_of_run_succ h
    rw [step_of_silent s hs] at hstep
    rw [ih ((engineTransition_script hstep).trans hs) hrest, engineTransition_answer hstep]

/-- The engine's own transition moves `step` on by one at most. -/
theorem Control.engine_step_le (c : Control) : c.engine.step.toNat ≤ c.step.toNat + 1 := by
  unfold Control.engine
  split
  next =>
    split
    next => exact Nat.zero_le _
    next =>
      show (c.step + 1).toNat ≤ c.step.toNat + 1
      bv_omega
  next => exact Nat.le_succ _

/-- Before `STORE` has taken effect the matrix buffer holds the operand untouched (70_reset R115). -/
theorem run_keeps_mat {n : Nat} {s t : State} (hs : s.script = []) (h : run n s = .next t)
    (hle : s.step.toNat + n ≤ 12) : t.mat = s.mat := by
  induction n generalizing s with
  | zero =>
    cases h
    rfl
  | succ n ih =>
    obtain ⟨u, hstep, hrest⟩ := exists_step_of_run_succ h
    rw [step_of_silent s hs] at hstep
    have hnext : u.step = s.control.engine.step :=
      congrArg Control.step (engineTransition_control hstep)
    have hmoved : u.step.toNat ≤ s.step.toNat + 1 := hnext ▸ Control.engine_step_le s.control
    have hkept : u.mat = s.mat := by
      obtain hsame | ⟨-, hlast, -⟩ := engineTransition_mat hstep
      · exact hsame
      · rw [hlast] at hle
        exact absurd hle (by simp)
    rw [ih ((engineTransition_script hstep).trans hs) hrest (by omega), hkept]

section
variable {s : State} (hidle : s.busy = false)
include hidle

theorem run_started_exists {n : Nat} (hn : n ≤ 12) : ∃ t, run n s.started = .next t := by
  obtain ⟨t, ht⟩ := runAt_exists (s := s.withScript startOnly) hidle rfl hn
  exact ⟨t, (run_startOnly (s := s.withScript startOnly) hidle rfl n).symm.trans ht.run_eq⟩

/-- The started state after its 13 steps: the transpose in the buffer, control completed. -/
theorem run_started_transposes :
    ∃ t, run 13 s.started = .next t ∧ t.control = completedControl ∧ t.answer = s.answer ∧
      t.mat.wf = true ∧ ∀ i, i < 32 → t.mat.lookup i = transposedRow s.mat.lookup i := by
  obtain ⟨t, ht, -, -, hwf, hrows⟩ := run_transposes (s := s.withScript startOnly) hidle rfl
  have hrun : run 13 s.started = .next t :=
    (run_startOnly (s := s.withScript startOnly) hidle rfl 13).symm.trans ht
  have hanswer : t.answer = s.started.answer := run_silent_answer rfl hrun
  refine ⟨t, hrun, ?_, hanswer, hwf, hrows⟩
  rw [run_control hrun, started_control, iterate_next_completes]

end

theorem completed_fields {t : State} (h : t.control = completedControl) :
    t.busy = false ∧ t.done = true ∧ t.step = 0 ∧ t.script = [] :=
  ⟨congrArg Control.busy h, congrArg Control.done h, congrArg Control.step h,
    congrArg Control.script h⟩

/-- Settles O46: control alone tells the 13 busy states and the completed one, which nothing moves. -/
theorem everyRunTakesThirteenSteps : Obligations.EveryRunTakesThirteenSteps := by
  refine fun s hidle hscript => ⟨fun n hn => ?_, fun n hn => ?_⟩
  · obtain ⟨t, ht⟩ := run_started_exists hidle hn
    have hcontrol : t.control = busyControl n := by
      rw [run_control ht, started_control, iterate_next_busyControl hn]
    exact ⟨t, (run_startOnly hidle hscript n).trans ht, congrArg Control.busy hcontrol,
      congrArg Control.done hcontrol, congrArg Control.step hcontrol,
      congrArg Control.script hcontrol⟩
  · obtain ⟨t, ht, hcontrol, -⟩ := run_started_transposes hidle
    obtain ⟨hbusy, hdone, hstep, hs⟩ := completed_fields hcontrol
    have hend : run 14 s = .next t := (run_startOnly hidle hscript 13).trans ht
    obtain ⟨m, rfl⟩ := Nat.exists_eq_add_of_le hn
    have hstays : run (14 + m) s = .next t := (run_add hend m).trans (run_of_idle_silent hbusy hs m)
    exact ⟨t, hstays, hbusy, hdone, hstep, hstays.trans hend.symm⟩

/-- Settles O51: both buffers are canonical and hold the transpose of the same rows. -/
theorem resultDoesNotDependOnOldRegisters : Obligations.ResultDoesNotDependOnOldRegisters := by
  intro s s' hidle hidle' hscript hscript' hsame
  have hrows : ∀ i, i < 32 → s.mat.lookup i = s'.mat.lookup i := fun i hi => by
    have hread := hsame i hi
    rw [memRead_of_lt _ hi, memRead_of_lt _ hi] at hread
    exact Option.some.inj hread
  obtain ⟨t, ht, -, -, hwf, hresult⟩ := run_transposes hidle hscript
  obtain ⟨t', ht', -, -, hwf', hresult'⟩ := run_transposes hidle' hscript'
  refine ⟨t, t', ht, ht', Memory.ext_of_wf t.mat t'.mat hwf hwf' fun i hi => ?_⟩
  rw [hresult i hi, hresult' i hi, transposedRow_congr hrows]

/-! ### A reset during a run -/

/-- The matrix buffer after a start and `n` steps: the operand before `STORE`, the result after it. -/
theorem run_started_mat {s : State} (hidle : s.busy = false) (n : Nat) :
    ∃ t, run n s.started = .next t ∧ (n ≤ 12 → t.mat = s.mat) ∧
      (13 ≤ n → ∀ i, i < 32 → t.mat.lookup i = transposedRow s.mat.lookup i) := by
  by_cases hn : n ≤ 12
  · obtain ⟨t, ht⟩ := run_started_exists hidle hn
    have hkept : t.mat = s.started.mat := run_keeps_mat rfl ht (by simpa [State.started] using hn)
    exact ⟨t, ht, fun _ => hkept, fun hge => absurd hge (by omega)⟩
  · obtain ⟨t, ht, hcontrol, -, -, hrows⟩ := run_started_transposes hidle
    obtain ⟨hbusy, -, -, hs⟩ := completed_fields hcontrol
    obtain ⟨m, rfl⟩ := Nat.exists_eq_add_of_lt (Nat.not_le.mp hn)
    have hstays : run (12 + m + 1) s.started = .next t := by
      rw [Nat.add_right_comm 12 m 1, run_add ht m, run_of_idle_silent hbusy hs m]
    exact ⟨t, hstays, fun hle => absurd hle hn, fun _ => hrows⟩

/-- Settles O52: the reset keeps the buffer that the start and the silent ticks leave. -/
theorem resetDuringARun : Obligations.ResetDuringARun := by
  intro s n hidle hscript
  obtain ⟨t, ht, hoperand, hresult⟩ := run_started_mat hidle n
  rw [List.append_assoc] at hscript
  have hsilent := run_silentTicks rfl ht [resetTick]
  have hreset : step (t.withScript [resetTick]) = .next (resetEngine (t.withScript [])) :=
    step_of_reset _ .pass [] rfl
  obtain ⟨hbusy, hdone, hstep, hmat, -, -⟩ := resetEngine_spec (t.withScript [])
  refine ⟨_, (run_succ_of_step (step_start hidle hscript) (n + 1)).trans (run_snoc hsilent hreset),
    hbusy, hdone, hstep, fun hn => hmat.trans (hoperand hn), fun hn i hi => ?_⟩
  rw [hmat, memRead_of_lt _ hi]
  exact congrArg some (hresult hn i hi)

/-! ### Status reads during a run -/

/-- The host's side of the state: its moves still to come and its last answer. -/
def State.withHostSide (s : State) (ticks : List Tick) (a : Option Answer) : State :=
  { s with script := ticks, answer := a }

@[simp] theorem State.withHostSide_step (s : State) (ticks : List Tick) (a : Option Answer) :
    (s.withHostSide ticks a).step = s.step := rfl

/-- No micro-operation reads or writes the host's side. -/
theorem exec_withHostSide {i : Instr} {s t : State} (h : exec i s = .next t) (ticks : List Tick)
    (a : Option Answer) : exec i (s.withHostSide ticks a) = .next (t.withHostSide ticks a) := by
  cases i <;> cases h <;> rfl

theorem advance_withHostSide (s : State) (ticks : List Tick) (a : Option Answer) :
    advance (s.withHostSide ticks a) = (advance s).withHostSide ticks a := by
  unfold advance
  rw [State.withHostSide_step]
  split <;> rfl

/-- A transition of the engine does not look at the host's side. -/
theorem engineTransition_withHostSide {s t : State} (h : engineTransition s = .next t)
    (ticks : List Tick) (a : Option Answer) :
    engineTransition (s.withHostSide ticks a) = .next (t.withHostSide ticks a) := by
  obtain ⟨hidle, rfl⟩ | ⟨hbusy, cw, i, u, hfetch, hdecode, hx, rfl⟩ := engineTransition_cases s t h
  · exact engineTransition_of_idle hidle
  · rw [(decode_eq_instr_iff cw i).mp hdecode] at hfetch
    rw [← advance_withHostSide]
    exact engineTransition_of_fetch hbusy hfetch (exec_withHostSide hx ticks a)

/-- A tick in which the host reads `busy` or `done`. -/
def Tick.IsStatusRead (k : Tick) : Prop :=
  k = { reset := false, move := .readBusy } ∨ k = { reset := false, move := .readDone }

theorem silentTick_not_isStatusRead : ¬ silentTick.IsStatusRead := by
  rintro (h | h) <;> cases h

/-- A status read changes the host's side only. -/
theorem step_of_isStatusRead {k : Tick} (hk : k.IsStatusRead) (s : State) (rest : List Tick)
    (a : Option Answer) :
    ∃ a', step (s.withHostSide (k :: rest) a) = .next (s.withHostSide rest a') := by
  obtain rfl | rfl := hk
  · exact ⟨_, step_of_hostMove _ .readBusy rest rfl⟩
  · exact ⟨_, step_of_hostMove _ .readDone rest rfl⟩

/-- A run with status reads mixed in is the run without them, but for the host's side. -/
theorem run_polled {wait : List Tick} (hwait : ∀ k ∈ wait, k = silentTick ∨ k.IsStatusRead) :
    ∀ {n : Nat} {s t : State}, s.script = [] → run n s = .next t → wait.count silentTick = n →
      ∀ a, ∃ a', run wait.length (s.withHostSide wait a) = .next (t.withHostSide [] a') := by
  induction wait with
  | nil =>
    rintro n s t - hrun rfl a
    cases hrun
    exact ⟨a, rfl⟩
  | cons k wait ih =>
    intro n s t hs hrun hcount a
    have hrest : ∀ j ∈ wait, j = silentTick ∨ j.IsStatusRead :=
      fun j hj => hwait j (List.mem_cons_of_mem k hj)
    obtain rfl | hk := hwait k List.mem_cons_self
    · rw [List.count_cons_self] at hcount
      subst hcount
      obtain ⟨u, hstep, hrun⟩ := exists_step_of_run_succ hrun
      rw [step_of_silent s hs] at hstep
      have hsilent : step (s.withHostSide (silentTick :: wait) a) = .next (u.withHostSide wait a) :=
        (step_of_hostMove _ .pass wait rfl).trans (engineTransition_withHostSide hstep wait a)
      obtain ⟨a', ha'⟩ := ih hrest ((engineTransition_script hstep).trans hs) hrun rfl a
      exact ⟨a', (run_succ_of_step hsilent _).trans ha'⟩
    · have hne : k ≠ silentTick := fun h => silentTick_not_isStatusRead (h ▸ hk)
      rw [List.count_cons_of_ne hne] at hcount
      obtain ⟨b, hread⟩ := step_of_isStatusRead hk s wait a
      obtain ⟨a', ha'⟩ := ih hrest hs hrun hcount b
      exact ⟨a', (run_succ_of_step hread _).trans ha'⟩

/-- Settles O50. -/
theorem statusPollingDoesNotDisturbARun : Obligations.StatusPollingDoesNotDisturbARun := by
  intro s wait hidle hscript hwait hcount
  obtain ⟨t, ht, hcontrol, -, -, hrows⟩ := run_started_transposes hidle
  obtain ⟨hbusy, hdone, hstep, -⟩ := completed_fields hcontrol
  obtain ⟨a, hpolled⟩ := run_polled hwait rfl ht hcount s.answer
  refine ⟨t.withHostSide [] a, (run_succ_of_step (step_start hidle hscript) _).trans hpolled,
    hbusy, hdone, hstep, rfl, fun i hi => ?_⟩
  rw [memRead_of_lt _ hi]
  exact congrArg some (hrows i hi)

/-! ### The one-transition view -/

/-- Between two requests the stepwise engine `s` is where the one-transition engine `u` is. -/
structure StandsFor (s u : State) : Prop where
  idle : s.busy = false
  idle_atOnce : u.busy = false
  step_eq : s.step = 0
  done_eq : s.done = u.done
  mat_eq : s.mat = u.mat
  mat_wf : s.mat.wf = true
  answer_eq : s.answer = u.answer

theorem run_one {s t : State} (h : step s = .next t) : run 1 s = .next t := run_snoc (run_zero s) h

theorem atOnce_transpose_mat (s : State) :
    (HostCall.transpose.atOnce s).mat = Memory.ofRows (transposedRow s.mat.lookup) := rfl

/-- A `transpose` request waited for is the one transition (43_transpose R88). -/
theorem StandsFor.transpose {s u : State} (h : StandsFor s u) {rest : List Tick}
    (hs : s.script = HostCall.transpose.ticks ++ rest) :
    ∃ t, run HostCall.transpose.ticks.length s = .next t ∧ t.script = rest ∧
      StandsFor t (HostCall.transpose.atOnce u) := by
  obtain ⟨t, ht, hcontrol, hanswer, hwf, hrows⟩ := run_started_transposes h.idle
  obtain ⟨hbusy, hdone, hstep, -⟩ := completed_fields hcontrol
  have hrun : run 14 s = .next (t.withScript rest) :=
    (run_succ_of_step (step_start h.idle hs) 13).trans (run_silentTicks rfl ht rest)
  refine ⟨t.withScript rest, hrun, rfl, hbusy, h.idle_atOnce, hstep, hdone, ?_, hwf,
    hanswer.trans h.answer_eq⟩
  refine Memory.ext_of_wf _ _ hwf (Memory.ofRows_wf _) fun i hi => ?_
  rw [State.withScript_mat, hrows i hi, atOnce_transpose_mat, Memory.lookup_ofRows _ i hi, h.mat_eq]

/-- The moves still to come are the stepwise engine's alone. -/
theorem StandsFor.withScript {s u : State} (h : StandsFor s u) (ticks : List Tick) :
    StandsFor (s.withScript ticks) u :=
  ⟨h.idle, h.idle_atOnce, h.step_eq, h.done_eq, h.mat_eq, h.mat_wf, h.answer_eq⟩

theorem StandsFor.put {s u : State} (h : StandsFor s u) {i : Nat} (hi : i < 32) (w : Word) :
    StandsFor (s.withMat (s.mat.put i w)) (u.withMat (u.mat.put i w)) :=
  ⟨h.idle, h.idle_atOnce, h.step_eq, h.done_eq, congrArg (Memory.put · i w) h.mat_eq,
    Memory.put_wf s.mat i w h.mat_wf hi, h.answer_eq⟩

theorem StandsFor.withAnswer {s u : State} (h : StandsFor s u) {a b : Answer} (hab : a = b) :
    StandsFor (s.withAnswer a) (u.withAnswer b) :=
  ⟨h.idle, h.idle_atOnce, h.step_eq, h.done_eq, h.mat_eq, h.mat_wf, congrArg some hab⟩

theorem StandsFor.reset {s u : State} (h : StandsFor s u) :
    StandsFor (resetEngine s) u.resetSequencer := by
  obtain ⟨hbusy, hdone, hstep, hmat, -, hanswer⟩ := resetEngine_spec s
  have hwf : (resetEngine s).mat.wf = true := by rw [hmat, h.mat_wf]
  exact ⟨hbusy, rfl, hstep, hdone, hmat.trans h.mat_eq, hwf, hanswer.trans h.answer_eq⟩

/-- Every request carried through takes the two engines on together. -/
theorem StandsFor.call {s u : State} (h : StandsFor s u) (c : HostCall) {rest : List Tick}
    (hs : s.script = c.ticks ++ rest) :
    ∃ t, run c.ticks.length s = .next t ∧ t.script = rest ∧ StandsFor t (c.atOnce u) := by
  have hrest := h.withScript rest
  cases c with
  | write i w =>
    have hnext := (step_of_hostMove s _ rest hs).trans (hostWrite_of_lt _ hrest.idle i.isLt w)
    exact ⟨_, run_one hnext, rfl, hrest.put i.isLt w⟩
  | read i =>
    have hnext := (step_of_hostMove s _ rest hs).trans (hostRead_of_lt _ hrest.idle i.isLt)
    have hrow : Answer.row (s.mat.lookup i.val) = .row (u.mat.lookup i.val) := by rw [h.mat_eq]
    exact ⟨_, run_one hnext, rfl, hrest.withAnswer hrow⟩
  | readBusy =>
    have hbit : Answer.bit s.busy = .bit u.busy := by rw [h.idle, h.idle_atOnce]
    exact ⟨_, run_one (step_of_hostMove s .readBusy rest hs), rfl, hrest.withAnswer hbit⟩
  | readDone =>
    have hbit : Answer.bit s.done = .bit u.done := by rw [h.done_eq]
    exact ⟨_, run_one (step_of_hostMove s .readDone rest hs), rfl, hrest.withAnswer hbit⟩
  | transpose => exact h.transpose hs
  | reset =>
    obtain ⟨-, -, -, -, hscript, -⟩ := resetEngine_spec (s.withScript rest)
    exact ⟨_, run_one (step_of_reset s .pass rest hs), hscript, hrest.reset⟩

/-- Any list of requests takes the two engines on together. -/
theorem StandsFor.calls (calls : List HostCall) :
    ∀ {s u : State}, StandsFor s u → s.script = calls.flatMap HostCall.ticks →
      ∃ t, run (calls.flatMap HostCall.ticks).length s = .next t ∧ t.script = [] ∧
        StandsFor t (calls.foldl (fun u c => c.atOnce u) u) := by
  induction calls with
  | nil => exact fun {s u} h hs => ⟨s, rfl, hs, h⟩
  | cons c calls ih =>
    intro s u h hs
    rw [List.flatMap_cons] at hs ⊢
    obtain ⟨t, ht, hrest, htogether⟩ := h.call c hs
    obtain ⟨v, hv, hdone, hend⟩ := ih htogether hrest
    rw [List.length_append, run_add ht]
    exact ⟨v, hv, hdone, hend⟩

theorem StandsFor.hostView_eq {s u : State} (h : StandsFor s u) : s.hostView = u.hostView := by
  rw [State.hostView, State.hostView, h.mat_eq, h.done_eq, h.idle, h.idle_atOnce]

/-- Settles O49: a legal idle engine stands for itself. -/
theorem stepwiseEngineEqualsOneTransitionEngine :
    Obligations.StepwiseEngineEqualsOneTransitionEngine := by
  intro calls s hlegal hidle hs
  obtain ⟨hcontrol, hwf⟩ := s.legal_iff.mp hlegal
  have hself : StandsFor s s := ⟨hidle, hidle, hcontrol.step_of_idle hidle, rfl, rfl, hwf, rfl⟩
  obtain ⟨t, ht, hend, htogether⟩ := StandsFor.calls calls hself hs
  exact ⟨t, ht, hend, htogether.step_eq, htogether.hostView_eq, htogether.answer_eq⟩

end Sys2Proof.Machine
end

section
/-! Single entries of the matrix: where they go and how many there are (43_transpose R98). -/

namespace Sys2Proof.Machine

/-! ### Localisation -/

/-- A single 1 entry goes to its mirror image across the diagonal. -/
theorem transposedRow_of_single {m : Rows} {a c : Nat} (ha : a < 32) (hc : c < 32)
    (hm : ∀ i, i < 32 → m i = if i = a then (1 : Word) <<< c else 0) (i : Nat) :
    transposedRow m i = if i = c then (1 : Word) <<< a else 0 := by
  refine ((eq_transposedRow_iff _ m i).mpr fun j hj => ?_).symm
  rw [hm j hj, apply_ite (BitVec.getLsbD · j), apply_ite (BitVec.getLsbD · i), getLsbD_one_shiftLeft,
    getLsbD_one_shiftLeft, decide_eq_true ha, decide_eq_true hc]
  simp only [eq_comm (a := a), eq_comm (a := c)]
  by_cases hic : i = c <;> by_cases hja : j = a <;> simp [hic, hja]

/-- The row 0b11 at row 0 becomes bit 0 of the rows 0 and 1. -/
theorem transposedRow_of_twoEntries {m : Rows} (hm : ∀ i, i < 32 → m i = if i = 0 then 0b11 else 0)
    {i : Nat} (hi : i < 32) : transposedRow m i = if i = 0 ∨ i = 1 then 1 else 0 := by
  refine ((eq_transposedRow_iff _ m i).mpr fun j hj => ?_).symm
  rw [hm j hj]
  decide +revert

/-- Settles O56: the rows after the run are the transpose's. -/
theorem singleEntryMovesAcrossTheDiagonal : Obligations.SingleEntryMovesAcrossTheDiagonal := by
  intro s hidle hscript
  obtain ⟨t, ht, -, -, -, hrows⟩ := run_transposes hidle hscript
  refine ⟨t, ht, fun a c ha hc hm i hi => ?_, fun hm i hi => ?_⟩
  · rw [hrows i hi, transposedRow_of_single ha hc hm i]
  · rw [hrows i hi, transposedRow_of_twoEntries hm hi]

/-! ### The number of 1 entries as a sum of bits -/

theorem countP_range_eq_sum (p : Nat → Bool) (n : Nat) :
    (List.range n).countP p = ∑ c ∈ Finset.range n, (p c).toNat := by
  induction n with
  | zero => rfl
  | succ n ih =>
    rw [List.range_succ, List.countP_append, ih, Finset.sum_range_succ]
    cases hp : p n <;> simp [hp]

theorem onesOf_eq_sum_range (w : Word) :
    onesOf w = ∑ c ∈ Finset.range 32, (w.getLsbD c).toNat := countP_range_eq_sum _ 32

theorem onesOf_eq_sum_fin (w : Word) : onesOf w = ∑ c : Fin 32, (w.getLsbD c.val).toNat := by
  rw [onesOf_eq_sum_range, Finset.sum_range]

theorem onesOfMatrix_eq_sum (m : Memory) :
    onesOfMatrix m = ∑ i ∈ Finset.range 32, ∑ j ∈ Finset.range 32, ((m.lookup i).getLsbD j).toNat := by
  have hrows : onesOfMatrix m = ∑ i ∈ Finset.range 32, onesOf (m.lookup i) := rfl
  simp only [hrows, onesOf_eq_sum_range]

/-- The transpose has as many 1 entries: its sum is taken by columns. -/
theorem onesOfMatrix_transposed {m m' : Memory}
    (h : ∀ i, i < 32 → m'.lookup i = transposedRow m.lookup i) :
    onesOfMatrix m' = onesOfMatrix m := by
  rw [onesOfMatrix_eq_sum, onesOfMatrix_eq_sum, Finset.sum_comm]
  refine Finset.sum_congr rfl fun j hj => Finset.sum_congr rfl fun i hi => ?_
  rw [h i (Finset.mem_range.mp hi), transposedRow_getLsbD _ i (Finset.mem_range.mp hj)]

/-! ### The rows and the lanes -/

/-- The 32 rows in order are the lanes of the first vector and then those of the second (R63). -/
theorem range_eq_lanes :
    List.range 32 = (List.finRange 16).map (fun l => l.val) ++
      (List.finRange 16).map (fun l => 16 + l.val) := by decide

/-- Two vectors that hold the rows of a matrix hold its 1 entries. -/
theorem onesOfMatrix_eq_onesOfVectors {m : Memory} {a0 a1 : Lanes}
    (h0 : ∀ l : Fin 16, m.lookup l.val = a0[l]) (h1 : ∀ l : Fin 16, m.lookup (16 + l.val) = a1[l]) :
    onesOfMatrix m = onesOfVectors a0 a1 := by
  rw [onesOfMatrix, onesOfVectors, range_eq_lanes, toList_eq_map_finRange, toList_eq_map_finRange]
  simp only [List.map_append, List.map_map, Function.comp_def, h0, h1]

theorem onesOfVectors_eq_sum_lanes (a0 a1 : Lanes) :
    onesOfVectors a0 a1 = ((List.finRange 16).map fun l => onesOf a0[l] + onesOf a1[l]).sum := by
  rw [onesOfVectors, toList_eq_map_finRange, toList_eq_map_finRange, List.sum_map_add]
  simp only [List.map_append, List.map_map, Function.comp_def, List.sum_append]

/-! ### The permutations and the merges -/

theorem onesOfVectors_permute {a0 a1 : IndexArray} (h : indexPairWf a0 a1 = true) (s : State) :
    onesOfVectors (permute a0 a1 s).p0 (permute a0 a1 s).p1 = onesOfVectors s.v0 s.v1 :=
  ((permute_toList_perm h s).map onesOf).sum_eq

/-- The bit that two words hold at one of the 64 places of `mergeSource`. -/
def bitAt (a b : Word) (place : Bool × Fin 32) : Bool :=
  (if place.1 then b else a).getLsbD place.2.val

theorem onesOf_add_onesOf (a b : Word) :
    onesOf a + onesOf b = ∑ place : Bool × Fin 32, (bitAt a b place).toNat := by
  rw [Fintype.sum_prod_type, Fintype.sum_bool, onesOf_eq_sum_fin, onesOf_eq_sum_fin, Nat.add_comm]
  rfl

theorem bitAt_merge (k : BlockSize) (a b : Word) (place : Bool × Fin 32) :
    bitAt (mergeLo k a b) (mergeHi k a b) place = bitAt a b (mergeSource k place) :=
  merge_getLsbD k a b place.1 place.2.isLt

/-- The merge moves the 64 bits by a bijection (42_merge R77(d)), so it keeps the number of ones. -/
theorem onesOf_merge (k : BlockSize) (a b : Word) :
    onesOf (mergeLo k a b) + onesOf (mergeHi k a b) = onesOf a + onesOf b := by
  simp only [onesOf_add_onesOf, bitAt_merge]
  exact Equiv.sum_comp (mergeSource_involutive k).toPerm fun place => (bitAt a b place).toNat

theorem onesOfVectors_merge (k : BlockSize) (s : State) :
    onesOfVectors (merge k s).v0 (merge k s).v1 = onesOfVectors s.p0 s.p1 := by
  simp only [onesOfVectors_eq_sum_lanes, merge_v0, merge_v1, onesOf_merge]

/-- Settles O57: the run transposes, `LOAD` and `STORE` copy the rows, the permutations reorder the words,
and a merge moves the bits of each lane by a bijection. -/
theorem numberOfOnesIsPreserved : Obligations.NumberOfOnesIsPreserved := by
  refine ⟨fun s hidle hscript => ?_, fun s => ⟨_, exec_load s, ?_⟩,
    fun k s => ⟨_, exec_swzOf k s, onesOfVectors_permute (indexPairWf_swz k) s⟩,
    fun k s => ⟨_, exec_mrgOf k s, onesOfVectors_merge k s⟩,
    fun s => ⟨_, exec_ilv s, onesOfVectors_permute indexPairWf_ilv s⟩,
    fun s => ⟨_, exec_store s, ?_⟩⟩
  · obtain ⟨t, ht, -, -, -, hrows⟩ := run_transposes hidle hscript
    exact ⟨t, ht, onesOfMatrix_transposed hrows⟩
  · obtain ⟨hv0, hv1, -⟩ := loadVectors_spec s
    exact (onesOfMatrix_eq_onesOfVectors (fun l => (hv0 l).symm) fun l => (hv1 l).symm).symm
  · obtain ⟨hlower, hupper, -⟩ := storeVectors_spec s
    exact onesOfMatrix_eq_onesOfVectors hlower hupper

end Sys2Proof.Machine
end
